-- ==== Sys2Proof/Word.lean ====
section
/-! DEFINITION. The word types of the part: bytes of frames and records, and the 48-bit seconds count of the time scale. -/

namespace Sys2Proof

/-- One byte of a frame, a record or a store area (spec/11). -/
abbrev Byte := BitVec 8

/-- A seconds count of the time scale: an unsigned 48-bit integer, arithmetic modulo 2^48 (R1). -/
abbrev Sec := BitVec 48

/-- A raw count of the sensor converter, 0 to 4,095 (R148). -/
abbrev Raw12 := BitVec 12

end Sys2Proof
end

