-- ==== Sys2Proof/Syntax.lean ====
section
/-! DEFINITION. The commands of the part: one constructor of `Instr` for each row of spec/opcode_table.json, with the operands that
the outside world supplies. Most commands are events of the part's own blocks; the spec lists them as its indivisible steps
(spec/95_what_each_step_holds.md). An operand `t` is the phase, in ps, that the time scale reads at the instant of the event. -/

namespace Sys2Proof

/-- The four tenant ports TP0 to TP3. Channel OCk, packet reference Tk and window Tk belong to port TPk. -/
inductive Port | tp0 | tp1 | tp2 | tp3
  deriving DecidableEq, Repr

/-- The two pulse inputs. -/
inductive PulseIn | p1 | p2
  deriving DecidableEq, Repr

/-- A phase reference: a pulse input, or the packet reference Tk of port k (section 3.1). -/
inductive PhaseRef
  | pulse (p : PulseIn)
  | packet (k : Port)
  deriving DecidableEq, Repr

/-- One of the seven references of the reference table: a phase reference or F1. -/
inductive Ref
  | phase (r : PhaseRef)
  | f1
  deriving DecidableEq, Repr

/-- The two kinds of phase reference. -/
inductive PhaseKind | pulse | packet
  deriving DecidableEq, Repr

/-- The three kinds of reference (R42). -/
inductive Kind | pulse | packet | frequency
  deriving DecidableEq, Repr

/-- The cause of a start-up (R183): a power-on reset, or a reset by RST. -/
inductive StartCause | powerOn | resetLine
  deriving DecidableEq, Repr

/-- How far the memory device had got when a save was cut short: the erases and programs it completed, and whether the STC had
begun the next one (R189). -/
structure SaveProgress where
  done  : Nat
  begun : Bool
  deriving DecidableEq, Repr

/-- The parts of a loop update that fall together at the mid-interval mark: the samples that the close of the three gates hands to
the Reference Qualifier, and the Discipline Loop's own update. The spec lets them be taken in any order (R19, R28, R43, R65). -/
inductive UpdatePart | sampleP1 | sampleP2 | sampleF1 | loop
  deriving DecidableEq, Repr

/-- The six raw counts of one sensor sequence (R148). -/
structure RawCounts where
  ofs  : Raw12
  tosc : Raw12
  tbrd : Raw12
  vsup : Raw12
  iovn : Raw12
  vctl : Raw12
  deriving DecidableEq, Repr

/-- The payload of an OFFSET REPORT request (R29, section 11.4). -/
structure OffsetFields where
  sequence  : BitVec 16
  masterSec : Sec
  masterNs  : BitVec 32
  offset    : BitVec 40
  delay     : BitVec 40
  grade     : Byte
  flags     : Byte
  deriving DecidableEq, Repr

/-- The payload of a CHANNEL SET request (R158, section 11.5). -/
structure ChannelFields where
  delay       : BitVec 32
  width       : BitVec 32
  limit       : BitVec 32
  polarity    : Byte
  action      : Byte
  requireTrac : Byte
  timeMarks   : Byte
  enabled     : Byte
  deriving DecidableEq, Repr

/-- The commands: one constructor for each row of spec/opcode_table.json. -/
inductive Instr
  /-- HARDWARE_RESET (R16): RST asserted or a power-on reset, with how far a save in flight had got. -/
  | hardwareReset (cause : StartCause) (progress : SaveProgress)
  /-- RESET_RELEASE (R193). -/
  | resetRelease
  /-- SITE_LOAD (R193); `answered`: the device answered every READ STATUS within 3 s (R188). -/
  | siteLoad (answered : Bool)
  /-- MODEL_LOAD (R193). -/
  | modelLoad (t : Nat) (answered : Bool)
  /-- EPOCH (R3). -/
  | epoch
  /-- AUTOSAVE (R191). -/
  | autosave
  /-- HOLD_OFF_EXPIRY (R51) of one record. -/
  | holdOffExpiry (r : Ref)
  /-- SETTLING_EXPIRY (R84). -/
  | settlingExpiry
  /-- LOOP_UPDATE (R71), with the order in which the parts that fall together are taken. -/
  | loopUpdate (order : List UpdatePart)
  /-- SLEW_TICK (R144): the tick number `k` of the interval. -/
  | slewTick (k : Fin 16)
  /-- PULSE_ARRIVAL (R19) on one pulse input. -/
  | pulseArrival (p : PulseIn) (t : Nat)
  /-- COMPANION_RECORD (R18): bytes that arrive on a companion line, in order; a record may arrive whole or in pieces. -/
  | companionRecord (p : PulseIn) (bytes : List Byte)
  /-- STALE_TIMER_EXPIRY (R34) of window Tk. -/
  | staleTimerExpiry (k : Port)
  /-- PULSE_DUE (R162) of channel OCk. -/
  | pulseDue (k : Port)
  /-- PULSE_END (R163) of channel OCk. -/
  | pulseEnd (k : Port)
  /-- ATTENTION_PULSE_END (R179) of port TPk. -/
  | attentionPulseEnd (k : Port)
  /-- SENSOR_SEQUENCE_START (R148). -/
  | sensorSequenceStart
  /-- VCTL_SAMPLE (R145). -/
  | vctlSample
  /-- SEQUENCE_COMPLETE (R150), with the six raw counts converted. -/
  | sequenceComplete (t : Nat) (raw : RawCounts)
  /-- TRANSACTION_START (R171): the first SCK edge of a transaction on port TPk. -/
  | transactionStart (k : Port)
  /-- FRAME_RECEIVED (R172): the release of CS, with the whole bytes clocked in; as many have been clocked out. -/
  | frameReceived (k : Port) (t : Nat) (bytes : List Byte)
  /-- POLL (R174). -/
  | poll (k : Port) (t : Nat)
  /-- STATUS (R182). -/
  | status (k : Port) (t : Nat)
  /-- IDENTIFY (R183). -/
  | identify (k : Port) (t : Nat)
  /-- PORT SET (R180). -/
  | portSet (k : Port) (t : Nat) (mode polarity limit : Byte)
  /-- PORT RESET (R181). -/
  | portReset (k : Port) (t : Nat)
  /-- OFFSET REPORT (R30). -/
  | offsetReport (k : Port) (t : Nat) (fields : OffsetFields)
  /-- REFERENCE GET (R68). -/
  | referenceGet (k : Port) (t : Nat) (index sect : Byte)
  /-- HISTORY GET (R110). -/
  | historyGet (k : Port) (t : Nat) (index : Byte)
  /-- TABLE GET (R111). -/
  | tableGet (k : Port) (t : Nat) (first : Byte)
  /-- HEALTH GET (R115). -/
  | healthGet (k : Port) (t : Nat)
  /-- MODEL CLEAR (R112). -/
  | modelClear (k : Port) (t : Nat)
  /-- EPISODE GET (R139). -/
  | episodeGet (k : Port) (t : Nat) (index sect : Byte)
  /-- SENSOR GET (R156). -/
  | sensorGet (k : Port) (t : Nat)
  /-- CHANNEL SET (R158). -/
  | channelSet (k : Port) (t : Nat) (fields : ChannelFields)
  /-- CHANNEL GET (R160). -/
  | channelGet (k : Port) (t : Nat)
  /-- SITE GET (R185). -/
  | siteGet (k : Port) (t : Nat) (ident inst : Byte)
  /-- SITE SET (R186). -/
  | siteSet (k : Port) (t : Nat) (ident inst : Byte) (value : BitVec 48)
  /-- SITE FREEZE (R187). -/
  | siteFreeze (k : Port) (t : Nat)
  /-- SITE SAVE (R190). -/
  | siteSave (k : Port) (t : Nat)
  /-- MODEL SAVE (R190). -/
  | modelSave (k : Port) (t : Nat)
  /-- SAVE_END (R189): the memory operations the device completed before one showed its error indication. -/
  | saveEnd (t : Nat) (clean : Nat)
  /-- SAVE_TIMEOUT (R189), with how far the device had got. -/
  | saveTimeout (t : Nat) (progress : SaveProgress)
  /-- POWER_FAIL_WARNING (R192). -/
  | powerFailWarning
  /-- F1_EDGE (R26). -/
  | f1Edge (t : Nat)
  /-- STATUS_BYTE_CLOCKED_OUT (R171). -/
  | statusByteClockedOut (k : Port)
  deriving DecidableEq, Repr

end Sys2Proof
end

