-- ==== Sys2Proof/Decode.lean ====
section
/-! DEFINITION. The commands that words spell. The part has no instruction decoder: spec/opcode_table.json gives no row any bits, so no word
spells a command. The frames and records that tenants, receivers and the memory device exchange with the part are read where their
layouts are modelled (Machine/Operands.lean, Machine/FrontEnd.lean, Machine/Store.lean). -/

namespace Sys2Proof

/-- The command that the low `nbits` bits of a word spell by the bits of spec/opcode_table.json: none, since no row has bits. -/
def decodeTableWord (_nbits _w : Nat) : Option Instr := none

end Sys2Proof
end

