-- ==== Sys2Proof/Config.lean ====
section
/-! DEFINITION. What is fixed for the part, and the free values: results that the spec leaves unstated. A free value is an opaque
constant applied to what it depends on, so no proof can rest on a number for it. -/

namespace Sys2Proof.Config

/-- One second of the time scale, in ps (R2). -/
abbrev second : Nat := 1000000000000

/-- Half a second of the time scale, in ps (R7). -/
abbrev halfSecond : Nat := 500000000000

/-- The reported bound that means unbounded (R14). -/
abbrev unbounded : Nat := 4294967295

/-- The greatest DAC code (R141). -/
abbrev maxCode : Nat := 1048575

/-- The factory centre code (R141). -/
abbrev factoryCentre : Nat := 524288

/-- The saturation of the holdover uncertainty: 16 × 10^12 (R127). -/
abbrev maxUncertainty : Nat := 16000000000000

/-- The divisor of the aging term: 86,400 × 16 (R122). -/
abbrev agingDivisor : Int := 1382400

/-- Most frames and reservations of an outbound queue (R170). -/
abbrev queuePlaces : Nat := 8

/-- FREE VALUE (log entry 11). The fitted slope where the two groups of fit bins have the same mean centre: R108 divides by the
difference of the means and states no result for a difference of 0. Applied to the numerator. -/
opaque slopeOverNoSpan : Int → Int

/-- FREE VALUE (log entry 12). The number whose low bytes fill a field of a frame, record or store area when the value to be sent
does not fit the width that the layout gives it: the spec states no encoding there. Applied to the width in bytes and the value. -/
opaque unstatedField : Nat → Int → Nat

end Sys2Proof.Config
end

