-- ==== Sys2Proof/Machine/Arith.lean ====
section
/-! DEFINITION. The arithmetic the spec names once and uses everywhere: the two roundings, clamps, saturating counts, differences of
stored times, byte order, and the two CRCs. -/

namespace Sys2Proof

/-- Nearest rounding of `n / d` for a positive `d`: halves away from zero (00_scope.md, Conventions). -/
def nearest (n d : Int) : Int :=
  if n < 0 then -((2 * (-n) + d) / (2 * d)) else (2 * n + d) / (2 * d)

/-- Ceiling of `n / d` for a positive `d` (00_scope.md, Conventions). -/
def ceiling (n d : Int) : Int := -((-n) / d)

/-- `x` clamped to the range `lo` to `hi` (00_scope.md, Conventions). -/
def clamp (lo hi x : Int) : Int := if x < lo then lo else if hi < x then hi else x

/-- `x` clamped to ± `m`. -/
def clampAbs (m x : Int) : Int := clamp (-m) m x

/-- `n + 1`, saturating at `top`. -/
def satSucc (top n : Nat) : Nat := if n < top then n + 1 else top

/-- The difference of two seconds counts modulo 2^48, read as a signed value from −(2^47 − 1) to 2^47 (R6). -/
def secDiff (a b : Sec) : Int :=
  let d : Nat := (a - b).toNat
  if d ≤ 140737488355328 then (d : Int) else (d : Int) - 281474976710656

/-- A seconds count advanced by a signed number of seconds, modulo 2^48 (R1, R7). -/
def secAdd (a : Sec) (n : Int) : Sec := a + BitVec.ofInt 48 n

/-- The `n` low bytes of a number, most significant first (R195). -/
def beBytes : Nat → Nat → List Byte
  | 0, _ => []
  | n + 1, v => BitVec.ofNat 8 (v / 256 ^ n) :: beBytes n v

/-- An unsigned field of `n` bytes (R195). A value beyond the width has no stated encoding (log entry 12). -/
def uField (n v : Nat) : List Byte :=
  beBytes n (if v < 256 ^ n then v else Config.unstatedField n v)

/-- A signed field of `n` bytes, two's complement (R195). A value beyond the width has no stated encoding (log entry 12). -/
def sField (n : Nat) (v : Int) : List Byte :=
  let span : Int := 256 ^ n
  beBytes n (if -span ≤ 2 * v ∧ 2 * v < span then (v % span).toNat else Config.unstatedField n v)

/-- One byte with a number's low bits. -/
def byte (v : Nat) : Byte := BitVec.ofNat 8 v

/-- A field of one byte (R195). -/
def u1 (v : Nat) : List Byte := uField 1 v

/-- A time-scale seconds count: six bytes (R195). -/
def secField (t : Sec) : List Byte := beBytes 6 t.toNat

/-- A field shown as absent: all its bytes 00h (R195). -/
def absent (n : Nat) : List Byte := List.replicate n 0

/-- An on/off field (R195). -/
def onOff (b : Bool) : Nat := if b then 1 else 0

/-- A flags byte from its bits, bit 0 first (R195). -/
def flagsByte : List Bool → Nat
  | [] => 0
  | b :: bs => onOff b + 2 * flagsByte bs

/-- The unsigned number that bytes spell, most significant first (R195). -/
def natOf (bs : List Byte) : Nat := bs.foldl (fun n b => 256 * n + b.toNat) 0

/-- The signed number that bytes spell in two's complement (R195). -/
def intOf (bs : List Byte) : Int :=
  let n := natOf bs
  if 2 * n < 256 ^ bs.length then (n : Int) else (n : Int) - 256 ^ bs.length

/-- The seconds count that six bytes spell. -/
def secOf (bs : List Byte) : Sec := BitVec.ofNat 48 (natOf bs)

/-- `n` bytes of a record from an offset. -/
def slice (off n : Nat) (bs : List Byte) : List Byte := (bs.drop off).take n

/-- One bit's worth of a CRC shift: the register moves up, and the polynomial is added where the top bit left it. -/
def crcShift {w : Nat} (poly : BitVec w) (r : BitVec w) : BitVec w :=
  if r.msb then (r <<< 1) ^^^ poly else r <<< 1

/-- Eight shifts: one byte of a CRC, most significant bit first (R196). -/
def crcByte {w : Nat} (poly r : BitVec w) : BitVec w :=
  crcShift poly (crcShift poly (crcShift poly (crcShift poly (crcShift poly (crcShift poly (crcShift poly (crcShift poly r)))))))

/-- CRC-8: polynomial 07h, initial value FFh, nothing reflected, nothing added at the end (R196). -/
def crc8 (bs : List Byte) : Byte := bs.foldl (fun r b => crcByte 0x07#8 (r ^^^ b)) 0xFF#8

/-- CRC-16: polynomial 1021h, initial value FFFFh, nothing reflected, nothing added at the end (R196). -/
def crc16 (bs : List Byte) : BitVec 16 :=
  bs.foldl (fun r b => crcByte 0x1021#16 (r ^^^ BitVec.shiftLeft (b.setWidth 16) 8)) 0xFFFF#16

/-- The byte that makes a record's bytes sum to 0 modulo 256 (R196). -/
def integrityByte (bs : List Byte) : Byte := -(bs.foldl (· + ·) 0)

/-- Bytes sum to 0 modulo 256 (R18, R196). -/
def sumsToZero (bs : List Byte) : Bool := bs.foldl (· + ·) 0 == 0

end Sys2Proof
end

