-- ==== Sys2Proof/Machine/Tables.lean ====
section
/-! DEFINITION. Small tables with one entry for each port, pulse input, reference or alarmed channel, with one reader and one writer
each; and the fixed orders in which the spec lists them. -/

namespace Sys2Proof

/-- One value for each tenant port (and so for each output channel and packet window). -/
structure PerPort (α : Type) where
  tp0 : α
  tp1 : α
  tp2 : α
  tp3 : α
  deriving DecidableEq, Repr

/-- The entry of one port. -/
def PerPort.get {α : Type} (x : PerPort α) : Port → α
  | .tp0 => x.tp0
  | .tp1 => x.tp1
  | .tp2 => x.tp2
  | .tp3 => x.tp3

/-- The table with one port's entry replaced. -/
def PerPort.set {α : Type} (x : PerPort α) (k : Port) (v : α) : PerPort α :=
  match k with
  | .tp0 => { x with tp0 := v }
  | .tp1 => { x with tp1 := v }
  | .tp2 => { x with tp2 := v }
  | .tp3 => { x with tp3 := v }

/-- The table with a function applied to every entry. -/
def PerPort.map {α β : Type} (f : α → β) (x : PerPort α) : PerPort β :=
  ⟨f x.tp0, f x.tp1, f x.tp2, f x.tp3⟩

/-- The table with the same value for every port. -/
def PerPort.same {α : Type} (v : α) : PerPort α := ⟨v, v, v, v⟩

/-- One value for each pulse input. -/
structure PerPulse (α : Type) where
  p1 : α
  p2 : α
  deriving DecidableEq, Repr

/-- The entry of one pulse input. -/
def PerPulse.get {α : Type} (x : PerPulse α) : PulseIn → α
  | .p1 => x.p1
  | .p2 => x.p2

/-- The table with one pulse input's entry replaced. -/
def PerPulse.set {α : Type} (x : PerPulse α) (p : PulseIn) (v : α) : PerPulse α :=
  match p with
  | .p1 => { x with p1 := v }
  | .p2 => { x with p2 := v }

/-- One value for each of the seven references of the reference table (section 3.1). -/
structure PerRef (α : Type) where
  pulses  : PerPulse α
  f1      : α
  packets : PerPort α
  deriving DecidableEq, Repr

/-- The entry of one reference. -/
def PerRef.get {α : Type} (x : PerRef α) : Ref → α
  | .phase (.pulse p) => x.pulses.get p
  | .phase (.packet k) => x.packets.get k
  | .f1 => x.f1

/-- The table with one reference's entry replaced. -/
def PerRef.set {α : Type} (x : PerRef α) (r : Ref) (v : α) : PerRef α :=
  match r with
  | .phase (.pulse p) => { x with pulses := x.pulses.set p v }
  | .phase (.packet k) => { x with packets := x.packets.set k v }
  | .f1 => { x with f1 := v }

/-- The table with the same value for every reference. -/
def PerRef.same {α : Type} (v : α) : PerRef α := ⟨⟨v, v⟩, v, .same v⟩

/-- The four channels that carry an alarm (section 7.6). -/
inductive AlarmChannel | tosc | tbrd | vsup | vctl
  deriving DecidableEq, Repr

/-- One value for each alarmed channel. -/
structure PerAlarm (α : Type) where
  tosc : α
  tbrd : α
  vsup : α
  vctl : α
  deriving DecidableEq, Repr

/-- The entry of one alarmed channel. -/
def PerAlarm.get {α : Type} (x : PerAlarm α) : AlarmChannel → α
  | .tosc => x.tosc
  | .tbrd => x.tbrd
  | .vsup => x.vsup
  | .vctl => x.vctl

/-- The ports in order. -/
def ports : List Port := [.tp0, .tp1, .tp2, .tp3]

/-- A port's number. -/
def Port.number : Port → Nat
  | .tp0 => 0
  | .tp1 => 1
  | .tp2 => 2
  | .tp3 => 3

/-- The phase references in table order: P1, P2, T0, T1, T2, T3 (R58, R63). -/
def phaseRefs : List PhaseRef :=
  [.pulse .p1, .pulse .p2, .packet .tp0, .packet .tp1, .packet .tp2, .packet .tp3]

/-- The seven references in table order: P1, P2, F1, T0, T1, T2, T3 (section 3.1). -/
def refs : List Ref :=
  [.phase (.pulse .p1), .phase (.pulse .p2), .f1, .phase (.packet .tp0), .phase (.packet .tp1), .phase (.packet .tp2),
   .phase (.packet .tp3)]

/-- A reference's index in the reference table, and its encoding (R42, R195). -/
def Ref.index : Ref → Nat
  | .phase (.pulse .p1) => 0
  | .phase (.pulse .p2) => 1
  | .f1 => 2
  | .phase (.packet k) => 3 + k.number

/-- A phase reference's place among the six, for the dispute flags (R197). -/
def PhaseRef.place : PhaseRef → Nat
  | .pulse .p1 => 0
  | .pulse .p2 => 1
  | .packet k => 2 + k.number

/-- The kind of a phase reference. -/
def PhaseRef.kind : PhaseRef → PhaseKind
  | .pulse _ => .pulse
  | .packet _ => .packet

/-- The kind of a reference (R42). -/
def Ref.kind : Ref → Kind
  | .phase (.pulse _) => .pulse
  | .phase (.packet _) => .packet
  | .f1 => .frequency

end Sys2Proof
end

