-- ==== Sys2Proof/Machine/Settings.lean ====
section
/-! DEFINITION. The site settings record (R184): the 78 values, their identifiers and instances (section 11.7), ranges, factory
values, and named readers. -/

namespace Sys2Proof

/-- One value of the site settings record: a field, with its instance where the field has several (R184). -/
inductive Setting
  | priority (r : PhaseRef)
  | inhibit (r : Ref)
  | cableDelay (p : PulseIn)
  | faultLimit (k : Kind)
  | qualifyLength (k : Kind)
  | gate (k : PhaseKind)
  | holdOffBase
  | disagreementLimit
  | revertive
  | stepPermitted
  | stepLimit
  | slewLimit
  | pullRange
  | bandwidth (k : PhaseKind)
  | lockThreshold (k : PhaseKind)
  | lockCount (k : PhaseKind)
  | lockedUncertainty (k : PhaseKind)
  | holdoverSpec
  | f1Nominal
  | f1Gate
  | f1Bandwidth
  | f1Uncertainty
  | gain
  | centre
  | steerPolarity
  | slewStep
  | readbackTolerance
  | readbackFaultCount
  | lowLimit (c : AlarmChannel)
  | highLimit (c : AlarmChannel)
  | hysteresis (c : AlarmChannel)
  | alarmCount (c : AlarmChannel)
  | tempRateLimit
  | settleCurrent
  | settleTime
  | windowThreshold (k : Port)
  | stalePeriod (k : Port)
  | autosaveInterval
  | startFrozen
  deriving DecidableEq, Repr

/-- The number of a kind among a field's instances: pulse 0, packet 1, frequency 2 (R184). -/
def Kind.number : Kind → Nat
  | .pulse => 0
  | .packet => 1
  | .frequency => 2

/-- The number of a phase kind among a field's instances (R184). -/
def PhaseKind.number : PhaseKind → Nat
  | .pulse => 0
  | .packet => 1

/-- The number of a pulse input among a field's instances (R184). -/
def PulseIn.number : PulseIn → Nat
  | .p1 => 0
  | .p2 => 1

/-- A sensor channel's sequencer index: TOSC 1, TBRD 2, VSUP 3, VCTL 5 (R184). -/
def AlarmChannel.number : AlarmChannel → Nat
  | .tosc => 1
  | .tbrd => 2
  | .vsup => 3
  | .vctl => 5

/-- A field's identifier (section 11.7). -/
def Setting.ident : Setting → Nat
  | .priority _ => 0x01
  | .inhibit _ => 0x02
  | .cableDelay _ => 0x03
  | .faultLimit _ => 0x04
  | .qualifyLength _ => 0x05
  | .gate _ => 0x06
  | .holdOffBase => 0x07
  | .disagreementLimit => 0x08
  | .revertive => 0x09
  | .stepPermitted => 0x0A
  | .stepLimit => 0x0B
  | .slewLimit => 0x0C
  | .pullRange => 0x0D
  | .bandwidth _ => 0x0E
  | .lockThreshold _ => 0x0F
  | .lockCount _ => 0x10
  | .lockedUncertainty _ => 0x11
  | .holdoverSpec => 0x12
  | .f1Nominal => 0x13
  | .f1Gate => 0x14
  | .f1Bandwidth => 0x15
  | .f1Uncertainty => 0x16
  | .gain => 0x17
  | .centre => 0x18
  | .steerPolarity => 0x19
  | .slewStep => 0x1A
  | .readbackTolerance => 0x1B
  | .readbackFaultCount => 0x1C
  | .lowLimit _ => 0x1D
  | .highLimit _ => 0x1E
  | .hysteresis _ => 0x1F
  | .alarmCount _ => 0x20
  | .tempRateLimit => 0x21
  | .settleCurrent => 0x22
  | .settleTime => 0x23
  | .windowThreshold _ => 0x24
  | .stalePeriod _ => 0x25
  | .autosaveInterval => 0x26
  | .startFrozen => 0x27

/-- A value's instance number within its field (R184); 0 where the field has one value (section 11.7). -/
def Setting.instanceNumber : Setting → Nat
  | .priority r => (Ref.phase r).index
  | .inhibit r => r.index
  | .cableDelay p => p.number
  | .faultLimit k | .qualifyLength k => k.number
  | .gate k | .bandwidth k | .lockThreshold k | .lockCount k | .lockedUncertainty k => k.number
  | .lowLimit c | .highLimit c | .hysteresis c | .alarmCount c => c.number
  | .windowThreshold k | .stalePeriod k => k.number
  | _ => 0

/-- The two kinds of phase reference in order. -/
def phaseKinds : List PhaseKind := [.pulse, .packet]

/-- The three kinds in order. -/
def kinds : List Kind := [.pulse, .packet, .frequency]

/-- The alarmed channels in order. -/
def alarmChannels : List AlarmChannel := [.tosc, .tbrd, .vsup, .vctl]

/-- The 78 values of the record in identifier and instance order (sections 11.7 and 11.8). -/
def Setting.all : List Setting :=
  List.flatten
    [phaseRefs.map Setting.priority, refs.map Setting.inhibit, [.cableDelay .p1, .cableDelay .p2],
     kinds.map Setting.faultLimit, kinds.map Setting.qualifyLength, phaseKinds.map Setting.gate,
     [.holdOffBase, .disagreementLimit, .revertive, .stepPermitted, .stepLimit, .slewLimit, .pullRange],
     phaseKinds.map Setting.bandwidth, phaseKinds.map Setting.lockThreshold, phaseKinds.map Setting.lockCount,
     phaseKinds.map Setting.lockedUncertainty,
     [.holdoverSpec, .f1Nominal, .f1Gate, .f1Bandwidth, .f1Uncertainty, .gain, .centre, .steerPolarity, .slewStep,
      .readbackTolerance, .readbackFaultCount],
     alarmChannels.map Setting.lowLimit, alarmChannels.map Setting.highLimit, alarmChannels.map Setting.hysteresis,
     alarmChannels.map Setting.alarmCount, [.tempRateLimit, .settleCurrent, .settleTime], ports.map Setting.windowThreshold,
     ports.map Setting.stalePeriod, [.autosaveInterval, .startFrozen]]

/-- The value that an identifier and an instance name, if any (R185, R186). -/
def Setting.named (ident inst : Nat) : Option Setting :=
  Setting.all.find? (fun x => x.ident == ident && x.instanceNumber == inst)

/-- A field that is a choice, not a number: on/off, the polarity, the nominal frequency (R186). -/
def Setting.isChoice : Setting → Bool
  | .inhibit _ | .revertive | .stepPermitted | .f1Nominal | .steerPolarity | .startFrozen => true
  | _ => false

/-- A channel's range of valid results (R149), with the range R184 gives VCTL. -/
def AlarmChannel.span : AlarmChannel → Int × Int
  | .tosc | .tbrd => (-1024, 3070)
  | .vsup => (0, 16376)
  | .vctl => (0, 1048575)

/-- The range of a value, lowest and highest; of a choice, its lowest and highest encoding (R184). -/
def Setting.range : Setting → Int × Int
  | .priority _ => (1, 15)
  | .inhibit _ => (0, 1)
  | .cableDelay _ => (0, 2000000)
  | .faultLimit _ => (1, 8)
  | .qualifyLength _ => (4, 600)
  | .gate _ => (100, 100000)
  | .holdOffBase => (10, 3600)
  | .disagreementLimit => (100, 100000)
  | .revertive => (0, 1)
  | .stepPermitted => (0, 1)
  | .stepLimit => (10000000, 1000000000000)
  | .slewLimit => (1000, 500000)
  | .pullRange => (10000, 2000000)
  | .bandwidth .pulse => (3, 12)
  | .bandwidth .packet => (6, 12)
  | .lockThreshold _ => (10, 10000)
  | .lockCount _ => (1, 255)
  | .lockedUncertainty _ => (1, 10000)
  | .holdoverSpec => (10, 1000000)
  | .f1Nominal => (0, 2)
  | .f1Gate => (100, 10000000)
  | .f1Bandwidth => (4, 10)
  | .f1Uncertainty => (1, 10000)
  | .gain => (1, 16777215)
  | .centre => (0, 1048575)
  | .steerPolarity => (0, 1)
  | .slewStep => (1, 65535)
  | .readbackTolerance => (0, 65535)
  | .readbackFaultCount => (1, 8)
  | .lowLimit c | .highLimit c => c.span
  | .hysteresis c => (0, c.span.2 - c.span.1)
  | .alarmCount _ => (1, 8)
  | .tempRateLimit => (1, 255)
  | .settleCurrent => (0, 4094)
  | .settleTime => (10, 3600)
  | .windowThreshold _ => (4, 32)
  | .stalePeriod _ => (1, 255)
  | .autosaveInterval => (0, 24)
  | .startFrozen => (0, 1)

/-- The factory value of each field (R184, R151). -/
def Setting.factory : Setting → Int
  | .priority (.pulse .p1) => 1
  | .priority (.pulse .p2) => 2
  | .priority (.packet _) => 5
  | .inhibit _ => 0
  | .cableDelay _ => 0
  | .faultLimit .pulse => 3
  | .faultLimit .packet => 2
  | .faultLimit .frequency => 4
  | .qualifyLength .pulse => 60
  | .qualifyLength .packet => 8
  | .qualifyLength .frequency => 30
  | .gate .pulse => 1000
  | .gate .packet => 5000
  | .holdOffBase => 300
  | .disagreementLimit => 1000
  | .revertive => 0
  | .stepPermitted => 1
  | .stepLimit => 1000000000
  | .slewLimit => 100000
  | .pullRange => 400000
  | .bandwidth .pulse => 8
  | .bandwidth .packet => 10
  | .lockThreshold .pulse => 100
  | .lockThreshold .packet => 500
  | .lockCount .pulse => 16
  | .lockCount .packet => 4
  | .lockedUncertainty .pulse => 20
  | .lockedUncertainty .packet => 200
  | .holdoverSpec => 1100
  | .f1Nominal => 0
  | .f1Gate => 5000
  | .f1Bandwidth => 7
  | .f1Uncertainty => 16
  | .gain => 85899
  | .centre => 524288
  | .steerPolarity => 0
  | .slewStep => 4096
  | .readbackTolerance => 1024
  | .readbackFaultCount => 3
  | .lowLimit .tosc => -480
  | .lowLimit .tbrd => -640
  | .lowLimit .vsup => 10800
  | .lowLimit .vctl => 16384
  | .highLimit .tosc => 1360
  | .highLimit .tbrd => 1280
  | .highLimit .vsup => 13200
  | .highLimit .vctl => 1032192
  | .hysteresis .tosc => 16
  | .hysteresis .tbrd => 16
  | .hysteresis .vsup => 200
  | .hysteresis .vctl => 4096
  | .alarmCount _ => 3
  | .tempRateLimit => 16
  | .settleCurrent => 400
  | .settleTime => 120
  | .windowThreshold _ => 16
  | .stalePeriod _ => 8
  | .autosaveInterval => 6
  | .startFrozen => 0

/-- A value lies in its range. -/
def Setting.admits (x : Setting) (v : Int) : Bool := decide (x.range.1 ≤ v ∧ v ≤ x.range.2)

/-- A value clamped into the range: beyond it, the nearer end (R186). -/
def Setting.clamped (x : Setting) (v : Int) : Int := clamp x.range.1 x.range.2 v

/-- The site settings record: one value for each instance, in identifier and instance order (R184, section 11.8). -/
structure SiteRecord where
  values : List Int
  deriving DecidableEq, Repr

/-- A value's place in the record. -/
def Setting.slot (x : Setting) : Nat := Setting.all.findIdx (fun y => y == x)

/-- The value of one instance of a field. -/
def SiteRecord.val (r : SiteRecord) (x : Setting) : Int := r.values.getD x.slot 0

/-- The record with one value replaced. -/
def SiteRecord.put (r : SiteRecord) (x : Setting) (v : Int) : SiteRecord := { r with values := r.values.set x.slot v }

/-- The factory record (R184). -/
def SiteRecord.factory : SiteRecord := { values := Setting.all.map Setting.factory }

/-- Every value of the record lies in its range. -/
def SiteRecord.inRange (r : SiteRecord) : Bool :=
  r.values.length == 78 && Setting.all.all (fun x => x.admits (r.val x))

/-- A numeric setting that is never negative, as a count. -/
def SiteRecord.nat (r : SiteRecord) (x : Setting) : Nat := (r.val x).toNat

/-- An on/off setting. -/
def SiteRecord.flag (r : SiteRecord) (x : Setting) : Bool := r.val x == 1

/-- The kind of a phase kind. -/
def PhaseKind.toKind : PhaseKind → Kind
  | .pulse => .pulse
  | .packet => .packet

/-- The nominal period of F1, in ps, as a fraction: 100,000; 488,281.25; or 10^12 / 1,544,000 (R26). -/
def SiteRecord.f1Period (r : SiteRecord) : Int × Int :=
  if r.val .f1Nominal = 0 then (100000, 1)
  else if r.val .f1Nominal = 1 then (1953125, 4)
  else (125000000, 193)

end Sys2Proof
end

