-- ==== Sys2Proof/Machine/State.lean ====
section
/-! DEFINITION. The state of the part, block by block, as plain data; its values after hardware reset; the reasons a step can stop. -/

namespace Sys2Proof.Machine

open Sys2Proof

/-- A time-scale time: seconds count and phase in ps (R1). -/
structure Time where
  sec   : Sec
  phase : Nat
  deriving DecidableEq, Repr

/-! ## Time Scale Unit (chapter 1) -/

/-- What the TSU owns (R1, R2, R7, R10, R11, R14, R16). -/
structure Tsu where
  /-- seconds count (R1) -/
  seconds : Sec
  /-- phase within the second, in ps (R1) -/
  phase : Nat
  /-- length L of the current epoch interval, in ps (R2) -/
  interval : Nat
  /-- pending step remainder, in ps (R7) -/
  remainder : Option Int
  /-- traceable flag (R10) -/
  traceable : Bool
  /-- time-quality class, 1 to 7 (R11) -/
  cls : Nat
  /-- reported bound B, in ns (R14) -/
  bound : Nat
  /-- label of the preceding epoch, for the minute mark (R5) -/
  prevLabel : Sec
  deriving DecidableEq, Repr

/-! ## Reference Front End (chapter 2) -/

/-- A receiver's state, as a companion record carries it (section 2.1.2). -/
inductive RxState | noFix | fix | timeOnly | degraded
  deriving DecidableEq, Repr

/-- A companion record (section 2.1.2). -/
structure Companion where
  label : Sec
  rx    : RxState
  sats  : Nat
  q     : Int
  deriving DecidableEq, Repr

/-- The state of one pulse input (section 2.1). -/
structure PulseInput where
  /-- pending companion -/
  pending : Option Companion
  /-- last accepted label -/
  lastLabel : Option Sec
  /-- unlabelled-run count, 0 to 3 -/
  unlabelledRun : Nat
  /-- pulse-seen flag of the sample interval in progress -/
  seen : Bool
  /-- previous pulse-seen flag -/
  prevSeen : Bool
  /-- last two estimates with their times, newest first -/
  lastTwo : List (Int × Time)
  /-- last receiver state and satellites in use -/
  lastRx : Option (RxState × Nat)
  /-- bytes of the companion record being received, oldest first; empty while none is (R18) -/
  receiving : List Byte
  deriving DecidableEq, Repr

/-- The F1 gate in progress, once it holds an edge (R26). `first` and `latest` are phases reckoned from the epoch that opened the
interval of the first edge; `carried` is the length of the whole intervals closed since. -/
structure F1Gate where
  first   : Nat
  latest  : Nat
  carried : Nat
  cycles  : Nat
  deriving DecidableEq, Repr

/-- The state of the F1 input (section 2.2). -/
structure F1Input where
  /-- gate start and the latest edge, or none -/
  gate : Option F1Gate
  /-- previous d -/
  prevD : Option Int
  /-- edges-seen flag of the last closed gate -/
  edgesSeen : Bool
  deriving DecidableEq, Repr

/-- An accepted offset report in a window (R29, R32). -/
structure Report where
  sequence  : Nat
  masterSec : Sec
  masterNs  : Nat
  offset    : Int
  delay     : Nat
  grade     : Nat
  accepted  : Time
  deriving DecidableEq, Repr

/-- The window of one packet reference with its stale timer (section 2.4). -/
structure Window where
  /-- accepted reports in order of arrival -/
  reports : List Report
  /-- stale timer: epochs remaining while it runs (R33) -/
  timer : Option Nat
  /-- time of the last accepted report (R32) -/
  lastAccepted : Option Time
  deriving DecidableEq, Repr

/-- What the RFE owns. -/
structure Rfe where
  pulses  : PerPulse PulseInput
  f1      : F1Input
  windows : PerPort Window
  deriving DecidableEq, Repr

/-! ## Reference Qualifier (chapter 3) -/

/-- The five states of a record (section 3.3). -/
inductive RefState | absent | observing | qualified | faulted | inhibited
  deriving DecidableEq, Repr

/-- The causes of bad samples and of transitions (R55). -/
inductive Cause
  | loss | extraPulse | label | receiver | range | gate | thinWindow | stale | outOfGate | inconsistent | disagree
  | firstSample | goodRun | holdOffEnd | noInput | inhibit | inhibitCleared
  deriving DecidableEq, Repr

/-- A trail entry (R55). -/
structure TrailEntry where
  state  : RefState
  cause  : Cause
  first  : Sec
  last   : Sec
  repeats : Nat
  deriving DecidableEq, Repr

/-- What formed a window estimate: n, K and the highest grade taken (R36). -/
structure WindowInfo where
  n     : Nat
  k     : Nat
  grade : Nat
  deriving DecidableEq, Repr

/-- A phase estimate as the RFE delivers it (R23, R36). An alignment step takes its whole seconds from `toSec` − `fromSec`: for a
pulse, the pulse's label and its reading epoch's (R81); for a window, the master second and the acceptance count of its newest
report (R82). -/
structure PhaseEstimate where
  e        : Int
  time     : Time
  toSec    : Sec
  fromSec  : Sec
  coarse   : Bool
  degraded : Bool
  /-- for a pulse, the two estimates held before it, newest first (R23) -/
  before   : List Int
  window   : Option WindowInfo
  deriving DecidableEq, Repr

/-- The latest estimate of a phase reference held for the Discipline Loop, with the RQU's judgement (R40, R46). `fresh`: delivered
since the previous loop update and not yet used (R72). -/
structure Held where
  estimate : PhaseEstimate
  good     : Bool
  fresh    : Bool
  deriving DecidableEq, Repr

/-- The last good estimate of a record: e of a phase reference or d of F1, with its event time (R42). -/
structure LastEstimate where
  value  : Int
  time   : Time
  window : Option WindowInfo
  deriving DecidableEq, Repr

/-- One record of the reference table (R42). Priority and inhibit are read from the site settings. -/
structure RefRecord where
  state : RefState
  faultCount : Nat
  goodRun : Nat
  /-- hold-off remaining, in epochs -/
  holdOff : Nat
  /-- current hold-off: the length of the latest one -/
  currentHoldOff : Nat
  lastEstimate : Option LastEstimate
  /-- consistency history, newest first; packet references only -/
  history : List Int
  /-- dispute partner; the dispute flag is set exactly while there is one; phase references only -/
  partner : Option PhaseRef
  /-- dispute-persistence count, 0 to 3 -/
  persistence : Nat
  trail : List TrailEntry
  /-- the held latest estimate (R40); phase references only -/
  held : Option Held
  deriving DecidableEq, Repr

/-- One entry of the pair table (R58). -/
structure PairEntry where
  a : PhaseRef
  b : PhaseRef
  disagreeRun : Nat
  agreeRun : Nat
  inDispute : Bool
  deriving DecidableEq, Repr

/-- The causes of a selection change (R65). -/
inductive SelectionCause | qualified | reverted | priority | faulted | inhibited
  deriving DecidableEq, Repr

/-- What the RQU owns (R42). -/
structure Rqu where
  records : PerRef RefRecord
  /-- the fifteen pairs of the pair table -/
  pairs : List PairEntry
  /-- selected phase reference -/
  selected : Option PhaseRef
  /-- latest selection cause -/
  selectionCause : Option SelectionCause
  /-- change count, 0 to 65,535 -/
  changeCount : Nat
  deriving DecidableEq, Repr

/-! ## Discipline Loop (chapter 4) -/

/-- The sub-modes of FREERUN (R77). -/
inductive FreeMode | unsteered | model | frequency
  deriving DecidableEq, Repr

/-- The sub-modes of HOLDOVER (R88). -/
inductive HoldMode | predicted | assisted
  deriving DecidableEq, Repr

/-- The engine state with its sub-mode, and the followed reference: one is named in ACQUIRING and LOCKED, none otherwise (R69). -/
inductive Engine
  | freerun (m : FreeMode)
  | acquiring (followed : PhaseRef)
  | locked (followed : PhaseRef)
  | holdover (m : HoldMode)
  deriving DecidableEq, Repr

/-- The record of the DLP (R69). -/
structure Dlp where
  engine : Engine
  /-- integral I, in 1/256 ppt -/
  integral : Int
  /-- proportional term P, in ppt -/
  prop : Int
  /-- f_out, in ppt -/
  fOut : Int
  /-- last e, in ps -/
  lastE : Int
  /-- coarse mark of last e -/
  coarse : Bool
  /-- updates since estimate, 0 to 64 -/
  sinceEstimate : Nat
  lockRun : Nat
  unlockRun : Nat
  /-- settling: clear, or the epochs remaining (R84) -/
  settling : Option Nat
  /-- first-estimate flag (R83) -/
  firstEstimate : Bool
  deriving DecidableEq, Repr

/-! ## Learning Unit (chapter 5) -/

/-- A closed bin of the drift history (R100). -/
structure Bin where
  start     : Sec
  finish    : Sec
  centre    : Sec
  /-- mean frequency, in 1/16 ppt -/
  mean      : Int
  /-- mean temperature, in 1/16 °C -/
  temp      : Int
  /-- spread, in ppt -/
  spread    : Nat
  samples   : Nat
  disturbed : Bool
  deriving DecidableEq, Repr

/-- The bin being filled (R98, R99). -/
structure OpenBin where
  start     : Sec
  finish    : Sec
  samples   : Nat
  sumI      : Int
  sumT      : Int
  maxI      : Int
  minI      : Int
  disturbed : Bool
  deriving DecidableEq, Repr

/-- One entry of the temperature table (R101). -/
structure TableEntry where
  v : Int
  w : Nat
  deriving DecidableEq, Repr

/-- The anchor (R106): time t_a and frequency f_a. -/
structure Anchor where
  time : Sec
  freq : Int
  deriving DecidableEq, Repr

/-- The warm-up state (R96). -/
inductive Warmup | warming | settled
  deriving DecidableEq, Repr

/-- The health verdict (R114). -/
inductive Verdict | failed | impaired | learning | ready
  deriving DecidableEq, Repr

/-- The learned model: what is saved, restored and cleared (R94). -/
structure Model where
  /-- drift history, oldest first -/
  history : List Bin
  /-- temperature table, 64 entries -/
  table : List TableEntry
  /-- aging slope a, in 1/16 ppt per day -/
  slope : Int
  slopeValid : Bool
  anchor : Option Anchor
  /-- F1 bias, in ppt -/
  f1Bias : Int
  deriving DecidableEq, Repr

/-- What the LRN owns (R94). -/
structure Lrn where
  model : Model
  openBin : Option OpenBin
  warmup : Warmup
  settleRun : Nat
  overRun : Nat
  /-- previous minute temperature -/
  minuteTemp : Option Int
  rateTrips : Nat
  lastTrip : Option Sec
  verdict : Verdict
  deriving DecidableEq, Repr

/-! ## Holdover Predictor (chapter 6) -/

/-- The base source (R116). -/
inductive BaseSource | none | bin | live
  deriving DecidableEq, Repr

/-- The entry causes of an episode (R89). -/
inductive EntryCause | referenceLost | allFaulted | inhibited | dispute
  deriving DecidableEq, Repr

/-- The exit causes of an episode (R138). -/
inductive ExitCause | reacquired | interrupted
  deriving DecidableEq, Repr

/-- An episode record (R138). -/
structure Episode where
  number : Nat
  start : Sec
  traceable : Bool
  entryMode : HoldMode
  entryCause : EntryCause
  modelCleared : Bool
  duration : Option Nat
  boundAtExit : Option Nat
  exitCause : Option ExitCause
  e1 : Option Int
  scoreBefore : Nat
  scoreAfter : Option Nat
  deriving DecidableEq, Repr

/-- The latest terms of the predictor (R116), with the two lookup grades (R123). -/
structure Terms where
  aging : Int
  temp : Int
  gradeNow : Nat
  gradeBase : Nat
  eTemp : Nat
  eAge : Nat
  u16 : Nat
  deriving DecidableEq, Repr

/-- What the HOP owns (R116). -/
structure Hop where
  isOpen : Bool
  baseSource : BaseSource
  f0 : Int
  baseTime : Sec
  baseTemp : Option Int
  eBase : Nat
  /-- episode time t_h, in epochs -/
  time : Nat
  /-- uncertainty U16, in 1/16 ps -/
  uncertainty : Nat
  /-- score S -/
  score : Nat
  scoreInUse : Nat
  modelCleared : Bool
  /-- ASSISTED integral I_h, in 1/256 ppt -/
  integral : Int
  terms : Terms
  /-- bound B, in ns -/
  bound : Nat
  /-- episode list, newest first -/
  episodes : List Episode
  nextNumber : Nat
  /-- the model's own field: epochs raised since the previous loop update (R127) -/
  epochs : Nat
  deriving DecidableEq, Repr

/-! ## Steering DAC and Sensor Sequencer (chapter 7) -/

/-- The at-limit flag with its sign (R141). -/
inductive AtLimit | clear | plus | minus
  deriving DecidableEq, Repr

/-- The steering state (R141). -/
inductive Steering | normal | held
  deriving DecidableEq, Repr

/-- The outcome of a readback comparison (R145). -/
inductive ReadbackOutcome | agree | disagree | skipped
  deriving DecidableEq, Repr

/-- The latest readback (R141, R145). -/
structure Readback where
  expected : Nat
  vctl : Option Int
  diff : Option Int
  outcome : ReadbackOutcome
  deriving DecidableEq, Repr

/-- What the SDC owns (R141), with the code and flag latched at the VCTL sample (R145). -/
structure Sdc where
  target : Nat
  output : Nat
  atLimit : AtLimit
  steering : Steering
  faultRun : Nat
  agreeRun : Nat
  /-- moved-at-last-tick flag -/
  moved : Bool
  latchedCode : Nat
  latchedMoved : Bool
  readback : Option Readback
  deriving DecidableEq, Repr

/-- An alarm state (R151). -/
inductive AlarmState | inRange | low | high
  deriving DecidableEq, Repr

/-- The side of an entry run (R151). -/
inductive Side | low | high
  deriving DecidableEq, Repr

/-- What an alarmed channel holds (R151). -/
structure Alarm where
  state : AlarmState
  entryRun : Nat
  side : Side
  exitRun : Nat
  deriving DecidableEq, Repr

/-- The latest results of the five converted channels, none where not valid (R148 to R150). -/
structure Results where
  offsetValid : Bool
  tosc : Option Int
  tbrd : Option Int
  vsup : Option Int
  iovn : Option Int
  vctl : Option Int
  deriving DecidableEq, Repr

/-- What the SSQ owns (R148, R150, R151). -/
structure Ssq where
  /-- a sequence is in progress -/
  inProgress : Bool
  /-- sequence count, 0 to 4,294,967,295 -/
  count : Nat
  /-- raw counts of the latest sequence -/
  raw : RawCounts
  results : Results
  alarms : PerAlarm Alarm
  deriving DecidableEq, Repr

/-! ## Output Channels (chapter 8) -/

/-- A channel's polarity (R157). -/
inductive Polarity | positive | negative
  deriving DecidableEq, Repr

/-- A channel's budget action (R157). -/
inductive BudgetAction | report | squelch
  deriving DecidableEq, Repr

/-- The causes of QUIET (R161). -/
inductive QuietCause | disabled | untraceable | overBudget
  deriving DecidableEq, Repr

/-- The channel state (R157). -/
inductive ChannelState
  | active
  | quiet (cause : QuietCause)
  deriving DecidableEq, Repr

/-- The eight settings of a channel (R157). -/
structure ChannelSettings where
  /-- pulse delay D, in ns -/
  delay : Int
  /-- pulse width W, in ns -/
  width : Nat
  polarity : Polarity
  /-- budget limit, in ns -/
  limit : Nat
  action : BudgetAction
  requireTraceable : Bool
  timeMarks : Bool
  enabled : Bool
  deriving DecidableEq, Repr

/-- The record of an output channel (R157). -/
structure Channel where
  settings : ChannelSettings
  state : ChannelState
  overBudget : Bool
  openingServed : Bool
  closingServed : Bool
  /-- pulse in progress: the instant it is due to end, in ps from the epoch that opened the interval in progress -/
  pulseEnd : Option Nat
  /-- last pulse label -/
  lastLabel : Option Sec
  /-- the polarity in force on the line: a new polarity waits for the end of a pulse in progress (R159) -/
  linePolarity : Polarity
  deriving DecidableEq, Repr

/-! ## Tenant Ports (chapter 9) -/

/-- The port state (R170). -/
inductive PortState | normal | suspect
  deriving DecidableEq, Repr

/-- The attention mode (R170). -/
inductive AttentionMode | level | pulse
  deriving DecidableEq, Repr

/-- The attention polarity (R170). -/
inductive AttentionPolarity | activeLow | activeHigh
  deriving DecidableEq, Repr

/-- The notice kinds (section 9.5). -/
inductive NoticeKind | timeMark | stateChange | referenceChange | budget | health | settings | episode | store
  deriving DecidableEq, Repr

/-- A frame of an outbound queue: a notice, or a response to a request of some kind byte; with its payload. -/
structure Frame where
  notice  : Option NoticeKind
  kind    : Byte
  payload : List Byte
  deriving DecidableEq, Repr

/-- The frame being shifted out (R171): the queue's head, or none for the idle frame; its status byte; and whether that byte has been
clocked out in full. -/
structure Transmit where
  frame : Option Frame
  status : Byte
  statusOut : Bool
  deriving DecidableEq, Repr

/-- The state of a tenant port (R170). -/
structure TenantPort where
  state : PortState
  badCount : Nat
  /-- outbound queue, oldest first -/
  queue : List Frame
  reservation : Bool
  dropped : Bool
  mode : AttentionMode
  polarity : AttentionPolarity
  faultLimit : Nat
  /-- attention pulse in progress: the instant it ends, in ps from the epoch that opened the interval in progress -/
  pulseEnd : Option Nat
  transmit : Option Transmit
  deriving DecidableEq, Repr

/-! ## Site Settings and Store Controller (chapter 10) -/

/-- What the SST owns (R184). -/
structure Sst where
  record : SiteRecord
  frozen : Bool
  siteDefault : Bool
  changeCount : Nat
  deriving DecidableEq, Repr

/-- The two areas of the store (section 10.3). -/
inductive Area | site | model
  deriving DecidableEq, Repr

/-- The kinds of save (R188). -/
inductive SaveKind | requested | auto | emergency
  deriving DecidableEq, Repr

/-- Why a save runs: on a port's request, as an autosave, or as an emergency save (R188). -/
inductive SaveOrigin
  | requested (k : Port)
  | auto
  | emergency
  deriving DecidableEq, Repr

/-- A save time: the seconds count and the traceable flag at the snapshot (section 10.3). -/
structure SaveTime where
  sec : Sec
  traceable : Bool
  deriving DecidableEq, Repr

/-- One operation of the STC on the memory port: an erase of a sector, or a program of a page (R189). -/
inductive MemOp
  | erase (addr : Nat)
  | program (addr : Nat) (data : List Byte)
  deriving DecidableEq, Repr

/-- A save in flight (R188): its area and origin, its snapshot with the save time, and the erases and programs it consists of. -/
structure Save where
  area : Area
  origin : SaveOrigin
  image : List Byte
  time : SaveTime
  ops : List MemOp
  deriving DecidableEq, Repr

/-- The store state (R188). LOADING is split by the area whose read is in progress (R193); SAVING holds the save in flight. -/
inductive StoreState
  | loadingSite
  | loadingModel
  | idle
  | saving (save : Save)
  deriving DecidableEq, Repr

/-- The last save record (R188). -/
structure SaveRecord where
  area : Area
  kind : SaveKind
  ok : Bool
  time : SaveTime
  deriving DecidableEq, Repr

/-- How the part stopped before this start-up (R183, R188). -/
inductive PreviousStop | clean | unclean | unknown
  deriving DecidableEq, Repr

/-- What the STC owns (R188), with the start-up sources that IDENTIFY reports (R183). -/
structure Stc where
  store : StoreState
  pendingEmergency : Bool
  autosaveCount : Nat
  owedSite : Bool
  owedModel : Bool
  lastSave : Option SaveRecord
  /-- clean-stop flag as last loaded -/
  previousStop : PreviousStop
  /-- site source STORE, not DEFAULT -/
  siteFromStore : Bool
  /-- model source RESTORED, not COLD -/
  modelRestored : Bool
  startCause : StartCause
  deriving DecidableEq, Repr

/-- The external memory device as far as the part depends on it: the image each area holds, or none for an area that is erased or
left invalid (R188, R189; log entry 9). It keeps its content through a hardware reset. -/
structure Flash where
  site : Option (List Byte)
  model : Option (List Byte)
  deriving DecidableEq, Repr

/-! ## The whole part -/

/-- The state of the part. -/
structure State where
  /-- reset has been released: the time scale counts and the blocks take events (R16, R193) -/
  running : Bool
  tsu : Tsu
  rfe : Rfe
  rqu : Rqu
  dlp : Dlp
  lrn : Lrn
  hop : Hop
  sdc : Sdc
  ssq : Ssq
  oc : PerPort Channel
  tp : PerPort TenantPort
  sst : Sst
  stc : Stc
  flash : Flash
  /-- the commands that are waiting, first in first out -/
  pending : List Instr
  deriving DecidableEq, Repr

/-- Reasons for which a step stops with a fault. There is none: the spec gives every event of the part an effect, and an event that is
not due leaves the part as it is (log entry 5). No meaning raises a fault. -/
inductive Fault
  deriving DecidableEq, Repr

/-- Reasons for which a command is refused. -/
inductive Refusal
  /-- Raised by `exec` for a command that has no meaning yet; no arm raises it in this model. Safe: the machine stops. -/
  | notModelled (mnemonic : String)
  deriving DecidableEq, Repr

/-! ## Values after hardware reset -/

/-- The TSU after hardware reset (R16; the previous label by R5). -/
def Tsu.reset : Tsu :=
  { seconds := 0, phase := 0, interval := 1000000000000, remainder := none, traceable := false, cls := 7,
    bound := 4294967295, prevLabel := 0 }

/-- A pulse input after hardware reset (section 2.1). -/
def PulseInput.reset : PulseInput :=
  { pending := none, lastLabel := none, unlabelledRun := 0, seen := false, prevSeen := false, lastTwo := [], lastRx := none,
    receiving := [] }

/-- The F1 input after hardware reset (section 2.2). -/
def F1Input.reset : F1Input := { gate := none, prevD := none, edgesSeen := false }

/-- A window after hardware reset (R39). -/
def Window.reset : Window := { reports := [], timer := none, lastAccepted := none }

/-- The RFE after hardware reset. -/
def Rfe.reset : Rfe := { pulses := ⟨.reset, .reset⟩, f1 := .reset, windows := .same .reset }

/-- A record after hardware reset (R42). -/
def RefRecord.reset : RefRecord :=
  { state := .absent, faultCount := 0, goodRun := 0, holdOff := 0, currentHoldOff := 0, lastEstimate := none, history := [],
    partner := none, persistence := 0, trail := [], held := none }

/-- A clear pair (R58). -/
def PairEntry.clear (a b : PhaseRef) : PairEntry :=
  { a := a, b := b, disagreeRun := 0, agreeRun := 0, inDispute := false }

/-- The unordered pairs of a list, in order. -/
def allPairs : List PhaseRef → List PairEntry
  | [] => []
  | a :: rest => List.append (rest.map (PairEntry.clear a)) (allPairs rest)

/-- The RQU after hardware reset (R42). -/
def Rqu.reset : Rqu :=
  { records := .same .reset, pairs := allPairs phaseRefs, selected := none, selectionCause := none, changeCount := 0 }

/-- The DLP after hardware reset (R69). -/
def Dlp.reset : Dlp :=
  { engine := .freerun .unsteered, integral := 0, prop := 0, fOut := 0, lastE := 0, coarse := false, sinceEstimate := 0,
    lockRun := 0, unlockRun := 0, settling := none, firstEstimate := false }

/-- The cleared model (R94). -/
def Model.cleared : Model :=
  { history := [], table := List.replicate 64 ⟨0, 0⟩, slope := 0, slopeValid := false, anchor := none, f1Bias := 0 }

/-- The LRN after hardware reset (R94). -/
def Lrn.reset : Lrn :=
  { model := .cleared, openBin := none, warmup := .warming, settleRun := 0, overRun := 0, minuteTemp := none, rateTrips := 0,
    lastTrip := none, verdict := .impaired }

/-- The HOP after hardware reset (R116). -/
def Hop.reset : Hop :=
  { isOpen := false, baseSource := .none, f0 := 0, baseTime := 0, baseTemp := none, eBase := 0, time := 0, uncertainty := 0,
    score := 16, scoreInUse := 16, modelCleared := false, integral := 0,
    terms := { aging := 0, temp := 0, gradeNow := 0, gradeBase := 0, eTemp := 0, eAge := 0, u16 := 0 },
    bound := 0, episodes := [], nextNumber := 1, epochs := 0 }

/-- The SDC after hardware reset (R141). The latched code and flag have no stated reset value: the reset output code and a clear flag
(log entry 22). -/
def Sdc.reset : Sdc :=
  { target := 524288, output := 524288, atLimit := .clear, steering := .normal, faultRun := 0, agreeRun := 0, moved := false,
    latchedCode := 524288, latchedMoved := false, readback := none }

/-- An alarm after hardware reset (R151). -/
def Alarm.reset : Alarm := { state := .inRange, entryRun := 0, side := .low, exitRun := 0 }

/-- The SSQ after hardware reset (R148). -/
def Ssq.reset : Ssq :=
  { inProgress := false, count := 0, raw := ⟨0, 0, 0, 0, 0, 0⟩,
    results := { offsetValid := false, tosc := none, tbrd := none, vsup := none, iovn := none, vctl := none },
    alarms := ⟨.reset, .reset, .reset, .reset⟩ }

/-- A channel after hardware reset (R157). -/
def Channel.reset : Channel :=
  { settings := { delay := 0, width := 100000, polarity := .positive, limit := 1500, action := .squelch,
                  requireTraceable := true, timeMarks := true, enabled := true },
    state := .quiet .untraceable, overBudget := true, openingServed := true, closingServed := false, pulseEnd := none,
    lastLabel := none, linePolarity := .positive }

/-- A port after hardware reset (R170). -/
def TenantPort.reset : TenantPort :=
  { state := .normal, badCount := 0, queue := [], reservation := false, dropped := false, mode := .level, polarity := .activeLow,
    faultLimit := 1, pulseEnd := none, transmit := none }

/-- The SST after hardware reset (R184). -/
def Sst.reset : Sst := { record := .factory, frozen := false, siteDefault := false, changeCount := 0 }

/-- The STC after hardware reset (R188, R183). The start-up cause is the operand of the reset. -/
def Stc.reset (cause : StartCause) : Stc :=
  { store := .loadingSite, pendingEmergency := false, autosaveCount := 0, owedSite := false, owedModel := false, lastSave := none,
    previousStop := .unknown, siteFromStore := false, modelRestored := false, startCause := cause }

/-- The part held in hardware reset, with a start-up cause, the memory device and the waiting commands as they are. -/
def State.resetWith (cause : StartCause) (flash : Flash) (pending : List Instr) : State :=
  { running := false, tsu := .reset, rfe := .reset, rqu := .reset, dlp := .reset, lrn := .reset, hop := .reset, sdc := .reset,
    ssq := .reset, oc := .same .reset, tp := .same .reset, sst := .reset, stc := .reset cause, flash := flash,
    pending := pending }

/-- The part right after hardware reset, before its release: every field at the value the spec gives. The start-up is a power-on and
both store areas are erased (log entry 10). -/
def State.reset : State := State.resetWith .powerOn ⟨none, none⟩ []

end Sys2Proof.Machine
end

