-- ==== Sys2Proof/Machine/Flags.lean ====
section
/-! DEFINITION. The status values of the part: the encodings of every enumeration (R195), the flags and status bytes, the levels of
the output lines, and the derivations of the class, the bound and the verdict's inputs that are pure functions of a block's state. -/

namespace Sys2Proof.Machine

open Sys2Proof

/-! ## Encodings (R195) -/

/-- The result codes. -/
inductive ResultCode
  | ok | clamped | malformed | unknown | busy | frozen | duplicate | tooOld | suspect | quiet | inhibited | notFound | failed
  deriving DecidableEq, Repr

/-- The encoding of a result. -/
def ResultCode.code : ResultCode → Nat
  | .ok => 0
  | .clamped => 1
  | .malformed => 2
  | .unknown => 3
  | .busy => 4
  | .frozen => 5
  | .duplicate => 6
  | .tooOld => 7
  | .suspect => 8
  | .quiet => 9
  | .inhibited => 10
  | .notFound => 11
  | .failed => 13

/-- The encoding of a reference or none. -/
def refCode : Option Ref → Nat
  | some r => r.index
  | none => 7

/-- The encoding of a phase reference or none. -/
def phaseRefCode (r : Option PhaseRef) : Nat := refCode (r.map Ref.phase)

/-- The encoding of a reference state. -/
def RefState.code : RefState → Nat
  | .absent => 0
  | .observing => 1
  | .qualified => 2
  | .faulted => 3
  | .inhibited => 4

/-- The encoding of a cause. -/
def Cause.code : Cause → Nat
  | .loss => 0
  | .extraPulse => 1
  | .label => 2
  | .receiver => 3
  | .range => 4
  | .gate => 5
  | .thinWindow => 6
  | .stale => 7
  | .outOfGate => 8
  | .inconsistent => 9
  | .disagree => 10
  | .firstSample => 11
  | .goodRun => 12
  | .holdOffEnd => 13
  | .noInput => 14
  | .inhibit => 15
  | .inhibitCleared => 16

/-- The encoding of the engine state. -/
def Engine.code : Engine → Nat
  | .freerun _ => 0
  | .acquiring _ => 1
  | .locked _ => 2
  | .holdover _ => 3

/-- The encoding of a holdover sub-mode. -/
def HoldMode.code : HoldMode → Nat
  | .predicted => 4
  | .assisted => 5

/-- The encoding of the sub-mode. -/
def Engine.modeCode : Engine → Nat
  | .freerun .unsteered => 1
  | .freerun .model => 2
  | .freerun .frequency => 3
  | .acquiring _ => 0
  | .locked _ => 0
  | .holdover m => m.code

/-- The followed reference, or none (R69). -/
def Engine.followed : Engine → Option PhaseRef
  | .acquiring f => some f
  | .locked f => some f
  | _ => none

/-- The engine state is LOCKED. -/
def Engine.isLocked : Engine → Bool
  | .locked _ => true
  | _ => false

/-- The receiver state that an encoding names. -/
def RxState.ofCode (n : Nat) : Option RxState :=
  if n = 0 then some .noFix
  else if n = 1 then some .fix
  else if n = 2 then some .timeOnly
  else if n = 3 then some .degraded
  else none

/-- The encoding of a receiver state. -/
def RxState.code : RxState → Nat
  | .noFix => 0
  | .fix => 1
  | .timeOnly => 2
  | .degraded => 3

/-- The encoding of a channel state's cause. -/
def ChannelState.code : ChannelState → Nat
  | .active => 0
  | .quiet .disabled => 1
  | .quiet .untraceable => 2
  | .quiet .overBudget => 3

/-- The encoding of a polarity. -/
def Polarity.code : Polarity → Nat
  | .positive => 0
  | .negative => 1

/-- The encoding of a budget action. -/
def BudgetAction.code : BudgetAction → Nat
  | .report => 0
  | .squelch => 1

/-- The encoding of an entry cause. -/
def EntryCause.code : EntryCause → Nat
  | .referenceLost => 0
  | .allFaulted => 1
  | .inhibited => 2
  | .dispute => 3

/-- The encoding of an exit cause. -/
def exitCode : Option ExitCause → Nat
  | none => 0
  | some .reacquired => 1
  | some .interrupted => 2

/-- The encoding of a verdict. -/
def Verdict.code : Verdict → Nat
  | .failed => 0
  | .impaired => 1
  | .learning => 2
  | .ready => 3

/-- The encoding of the steering state. -/
def Steering.code : Steering → Nat
  | .normal => 0
  | .held => 1

/-- The encoding of the store state. -/
def StoreState.code : StoreState → Nat
  | .loadingSite => 0
  | .loadingModel => 0
  | .idle => 1
  | .saving _ => 2

/-- The store is LOADING (R188). -/
def StoreState.isLoading : StoreState → Bool
  | .loadingSite => true
  | .loadingModel => true
  | .idle => false
  | .saving _ => false

/-- The encoding of the start-up cause. -/
def startCode : StartCause → Nat
  | .powerOn => 0
  | .resetLine => 1

/-- The encoding of the previous stop. -/
def PreviousStop.code : PreviousStop → Nat
  | .clean => 0
  | .unclean => 1
  | .unknown => 2

/-- The encoding of a selection cause. -/
def selectionCode : Option SelectionCause → Nat
  | none => 0
  | some .qualified => 1
  | some .reverted => 2
  | some .priority => 3
  | some .faulted => 4
  | some .inhibited => 5

/-- The encoding of an area. -/
def Area.code : Area → Nat
  | .site => 0
  | .model => 1

/-- The encoding of a save kind. -/
def SaveKind.code : SaveKind → Nat
  | .requested => 0
  | .auto => 1
  | .emergency => 2

/-- The encoding of an alarm state. -/
def AlarmState.code : AlarmState → Nat
  | .inRange => 0
  | .low => 1
  | .high => 2

/-- The encoding of the warm-up state. -/
def Warmup.code : Warmup → Nat
  | .warming => 0
  | .settled => 1

/-- The encoding of the at-limit flag. -/
def AtLimit.code : AtLimit → Nat
  | .clear => 0
  | .plus => 1
  | .minus => 2

/-- The encoding of the latest readback's outcome. -/
def readbackCode : Option Readback → Nat
  | none => 0
  | some r => match r.outcome with
    | .agree => 1
    | .disagree => 2
    | .skipped => 3

/-- The encoding of a base source (R198). -/
def BaseSource.code : BaseSource → Nat
  | .none => 0
  | .bin => 1
  | .live => 2

/-- The encoding of an attention mode (section 11.2). -/
def AttentionMode.code : AttentionMode → Nat
  | .level => 0
  | .pulse => 1

/-- The encoding of an attention polarity (section 11.2). -/
def AttentionPolarity.code : AttentionPolarity → Nat
  | .activeLow => 0
  | .activeHigh => 1

/-- The kind byte of a notice (section 11.2). -/
def NoticeKind.code : NoticeKind → Nat
  | .timeMark => 0x81
  | .stateChange => 0x82
  | .referenceChange => 0x83
  | .budget => 0x84
  | .health => 0x85
  | .settings => 0x86
  | .episode => 0x87
  | .store => 0x88

/-! ## Class and bound (sections 1.5, 1.6) -/

/-- The locked uncertainty of a kind, in ns (R13). -/
def lockedUncertainty (r : SiteRecord) (k : PhaseKind) : Nat := r.nat (.lockedUncertainty k)

/-- The bound B of a derivation (R13, R14). -/
def deriveBound (r : SiteRecord) (d : Dlp) (holdoverBound : Nat) : Nat :=
  match d.engine with
  | .freerun _ => Config.unbounded
  | .locked f => lockedUncertainty r f.kind
  | .acquiring f =>
    max (lockedUncertainty r f.kind + if d.coarse then 8 else 0) (ceiling d.lastE.natAbs 1000).toNat
  | .holdover _ => holdoverBound

/-- The class of a derivation with the bound it derives (R11). -/
def deriveClass (r : SiteRecord) (e : Engine) (bound : Nat) : Nat :=
  match e with
  | .locked f => match f.kind with
    | .pulse => 1
    | .packet => 2
  | .acquiring _ => 3
  | .holdover _ => if (bound : Int) ≤ r.val .holdoverSpec then 4 else 5
  | .freerun .unsteered => 7
  | .freerun _ => 6

/-! ## Lines -/

/-- A port's attention line is asserted: in LEVEL mode while the queue holds a frame, in PULSE mode during a pulse (R179). -/
def TenantPort.attention (p : TenantPort) : Bool :=
  match p.mode with
  | .level => !p.queue.isEmpty
  | .pulse => p.pulseEnd.isSome

/-- The level of TPk_ATN, true for high (R179). -/
def TenantPort.attentionHigh (p : TenantPort) : Bool :=
  match p.polarity with
  | .activeLow => !p.attention
  | .activeHigh => p.attention

/-- The level of OCk_OUT, true for high: the resting level of the polarity in force, or the other during a pulse (R157, R163). -/
def Channel.lineHigh (c : Channel) : Bool :=
  match c.linePolarity with
  | .positive => c.pulseEnd.isSome
  | .negative => !c.pulseEnd.isSome

/-- The channel state is QUIET. -/
def ChannelState.isQuiet : ChannelState → Bool
  | .active => false
  | .quiet _ => true

/-- The status byte of an outbound frame: depth in bits 2 to 0, dropped in bit 3, SUSPECT in bit 4 (section 11.2). -/
def statusByte (depth : Nat) (dropped : Bool) (state : PortState) : Byte :=
  byte (min depth 7 + 8 * onOff dropped + 16 * onOff (state == .suspect))

/-! ## Health (section 5.8) -/

/-- An alarm stands LOW or HIGH. -/
def AlarmState.raised : AlarmState → Bool
  | .inRange => false
  | .low => true
  | .high => true

/-- The number of non-empty table entries. -/
def Model.filled (m : Model) : Nat := (m.table.filter (fun x => decide (0 < x.w))).length

/-- The number of table entries with weight 16 or more. -/
def Model.wellFilled (m : Model) : Nat := (m.table.filter (fun x => decide (16 ≤ x.w))).length

/-- The verdict: the first condition that holds (R114). -/
def deriveVerdict (l : Lrn) (d : Sdc) (alarms : PerAlarm Alarm) : Verdict :=
  if d.steering = .held ∨ alarms.tosc.state.raised = true ∨ (l.model.slopeValid = true ∧ l.model.slope.natAbs = 320000) then .failed
  else if l.warmup = .warming ∨ alarms.tbrd.state.raised = true ∨ alarms.vsup.state.raised = true ∨
      alarms.vctl.state.raised = true ∨ d.atLimit ≠ .clear then .impaired
  else if l.model.slopeValid = false ∨ l.model.wellFilled < 8 then .learning
  else .ready

end Sys2Proof.Machine
end

