-- ==== Sys2Proof/Machine/Ops.lean ====
section
/-! DEFINITION. The operations every block uses: reading the time scale and moving its phase to an event's instant, the records and
settings, the outbound queues with their notices, and emptying a packet window. -/

namespace Sys2Proof.Machine

open Sys2Proof

/-! ## Time -/

/-- The time-scale time (R1). -/
def State.now (s : State) : Time := ⟨s.tsu.seconds, s.tsu.phase⟩

/-- The TSU at the instant of an event whose phase is `t`. The phase never runs back, and it stays below the interval's length, which
only an epoch ends: an instant outside the rest of the interval is taken at the nearer end of it (log entry 2). -/
def Tsu.advance (x : Tsu) (t : Nat) : Tsu := { x with phase := max x.phase (min t (x.interval - 1)) }

/-- The part at the instant of an event whose phase is `t`. -/
def State.advanceTo (s : State) (t : Nat) : State := { s with tsu := s.tsu.advance t }

/-- The outcome of a command that the part takes only once reset has been released. While hardware reset is held no block takes an
event, and the command changes nothing (R16, R148, R170; log entry 4). -/
def whileRunning (s : State) (f : State → State) : Host.Outcome State Fault Refusal :=
  .next (if s.running then f s else s)

/-! ## Parts of the state -/

/-- The site settings record in force (R184). -/
abbrev State.site (s : State) : SiteRecord := s.sst.record

/-- A record of the reference table. -/
def State.record (s : State) (r : Ref) : RefRecord := s.rqu.records.get r

/-- One record of the reference table changed. -/
def State.onRecord (s : State) (r : Ref) (f : RefRecord → RefRecord) : State :=
  { s with rqu := { s.rqu with records := s.rqu.records.set r (f (s.record r)) } }

/-- One pulse input changed. -/
def State.onPulse (s : State) (p : PulseIn) (f : PulseInput → PulseInput) : State :=
  { s with rfe := { s.rfe with pulses := s.rfe.pulses.set p (f (s.rfe.pulses.get p)) } }

/-- One window changed. -/
def State.onWindow (s : State) (k : Port) (f : Window → Window) : State :=
  { s with rfe := { s.rfe with windows := s.rfe.windows.set k (f (s.rfe.windows.get k)) } }

/-- One channel changed. -/
def State.onChannel (s : State) (k : Port) (f : Channel → Channel) : State :=
  { s with oc := s.oc.set k (f (s.oc.get k)) }

/-- One port changed. -/
def State.onPort (s : State) (k : Port) (f : TenantPort → TenantPort) : State :=
  { s with tp := s.tp.set k (f (s.tp.get k)) }

/-- A reference's inhibit setting is on (R184). -/
def State.inhibited (s : State) (r : Ref) : Bool := s.site.flag (.inhibit r)

/-- F1 is available while its record is QUALIFIED (R66). -/
def State.f1Available (s : State) : Bool := (s.record .f1).state == .qualified

/-- The record counts samples: OBSERVING or QUALIFIED (R47). -/
def RefState.counts : RefState → Bool
  | .observing => true
  | .qualified => true
  | _ => false

/-! ## Outbound queues (section 9.5) -/

/-- The frames and the reservation of a queue (R175). -/
def TenantPort.places (p : TenantPort) : Nat := p.queue.length + onOff p.reservation

/-- A frame is a notice of a kind. -/
def Frame.isNotice (k : NoticeKind) (f : Frame) : Bool := f.notice == some k

/-- A frame joins the tail. In PULSE mode a frame that joins an empty queue starts, or restarts, the 1 µs attention pulse (R179). -/
def TenantPort.append (phase : Nat) (p : TenantPort) (f : Frame) : TenantPort :=
  { p with
    queue := List.append p.queue [f]
    pulseEnd := if p.queue.isEmpty && p.mode == .pulse then some (phase + 1000000) else p.pulseEnd }

/-- Room made in a full queue for a frame that is not a TIME MARK: the TIME MARK is removed, or else the oldest notice; none where the
queue holds no notice (R177). A removal sets the dropped flag. -/
def TenantPort.makeRoom (p : TenantPort) : Option TenantPort :=
  if p.queue.any (Frame.isNotice .timeMark) then
    some { p with queue := p.queue.eraseP (Frame.isNotice .timeMark), dropped := true }
  else if p.queue.any (fun f => f.notice.isSome) then
    some { p with queue := p.queue.eraseP (fun f => f.notice.isSome), dropped := true }
  else none

/-- A frame joins a queue, subject to R177 when frames and reservation number 8. A TIME MARK that finds the queue full is discarded,
and so is a frame for which no room can be made; a discard sets the dropped flag (R177, R178; log entry 27 for a response). -/
def TenantPort.join (phase : Nat) (p : TenantPort) (f : Frame) : TenantPort :=
  if p.places < Config.queuePlaces then p.append phase f
  else if f.notice = some .timeMark then { p with dropped := true }
  else match p.makeRoom with
    | some p' => p'.append phase f
    | none => { p with dropped := true }

/-- A notice placed for a port: it replaces the content of a queued notice of its kind, or joins the tail (R176). -/
def TenantPort.place (phase : Nat) (p : TenantPort) (k : NoticeKind) (payload : List Byte) : TenantPort :=
  if p.queue.any (Frame.isNotice k) then
    { p with queue := p.queue.map (fun f => if f.isNotice k then { f with payload := payload } else f) }
  else p.join phase { notice := some k, kind := byte k.code, payload := payload }

/-- A notice placed for one port (R176). -/
def State.notice (s : State) (k : Port) (n : NoticeKind) (payload : List Byte) : State :=
  s.onPort k (fun p => p.place s.tsu.phase n payload)

/-- A notice placed for every port, each queue on its own (R176). -/
def State.noticeAll (s : State) (n : NoticeKind) (payload : List Byte) : State :=
  { s with tp := s.tp.map (fun p => p.place s.tsu.phase n payload) }

/-- A response to a request of a kind byte joins a port's queue (R175). -/
def State.respond (s : State) (k : Port) (kind : Nat) (payload : List Byte) : State :=
  s.onPort k (fun p => p.join s.tsu.phase { notice := none, kind := byte kind, payload := payload })

/-- A reservation taken for a deferred response: it counts as one place, and a frame is removed by R177 where the queue is full
(R175). A queue full of responses has no room for it (log entry 27). -/
def TenantPort.reserve (p : TenantPort) : TenantPort :=
  if p.places < Config.queuePlaces then { p with reservation := true }
  else match p.makeRoom with
    | some p' => { p' with reservation := true }
    | none => { p with dropped := true }

/-- A deferred response replaces the reservation and joins the tail of the queue; the reservation held its place (R175). -/
def TenantPort.redeem (phase : Nat) (p : TenantPort) (f : Frame) : TenantPort := ({ p with reservation := false }).join phase f

/-! ## Fields of frames that several blocks use (R195, R197) -/

/-- Seconds and phase, six bytes each (R197). -/
def timeField (t : Time) : List Byte := List.append (secField t.sec) (uField 6 t.phase)

/-- A save time: seconds and the traceable flag (R195). -/
def saveTimeField (t : SaveTime) : List Byte := List.append (secField t.sec) (u1 (onOff t.traceable))

/-- The response of a request that carries only its result (R195). -/
def resultOnly (r : ResultCode) : List Byte := u1 r.code

/-- The seconds and traceable flag at a snapshot (section 10.3). -/
def State.saveTime (s : State) : SaveTime := ⟨s.tsu.seconds, s.tsu.traceable⟩

/-! ## Packet windows -/

/-- The stale period of a window, in epochs (section 2.4). -/
def State.stalePeriod (s : State) (k : Port) : Nat := s.site.nat (.stalePeriod k)

/-- A flush: the reports are discarded without an estimate, and a running stale timer is restarted (R37). -/
def State.flushWindow (s : State) (k : Port) : State :=
  s.onWindow k (fun w => { w with reports := [], timer := w.timer.map (fun _ => s.stalePeriod k) })

/-- A window's stale timer stopped (R33). -/
def State.stopTimer (s : State) (k : Port) : State := s.onWindow k (fun w => { w with timer := none })

/-! ## Sensor results -/

/-- The TOSC result of the latest completed sequence, or none (R150). -/
def State.tosc (s : State) : Option Int := s.ssq.results.tosc

/-- The TOSC alarm stands LOW or HIGH (R104). -/
def State.toscAlarm (s : State) : Bool := s.ssq.alarms.tosc.state.raised

end Sys2Proof.Machine
end

