-- ==== Sys2Proof/Machine/Qualifier.lean ====
section
/-! DEFINITION. The Reference Qualifier (chapter 3): judging estimates, counting samples, the five states, trails, disagreement,
selection and the REFERENCE CHANGE notice. -/

namespace Sys2Proof.Machine

open Sys2Proof

/-! ## Samples -/

/-- A sample the RFE hands to the RQU, with the time of its event (R40): an estimate, of phase (which carries its time) or of F1's offset
d, or a bad sample with its cause. -/
inductive Sample
  | phase (e : PhaseEstimate)
  | offset (d : Int) (time : Time)
  | bad (c : Cause) (time : Time)
  deriving DecidableEq, Repr

/-- What an event of the RQU has changed so far, in order: a reference with the cause of its transition, or with none where only its
dispute flag changed (R67). -/
abbrev Changes := List (Ref × Option Cause)

/-- The part in the midst of an event of the RQU, with the changes made so far. -/
structure Work where
  st : State
  changes : Changes

/-- An operation on the part that makes no change of R67. -/
def Work.on (w : Work) (f : State → State) : Work := { w with st := f w.st }

/-- A change recorded. -/
def Work.mark (w : Work) (r : Ref) (c : Option Cause) : Work := { w with changes := List.append w.changes [(r, c)] }

/-! ## Judging (section 3.2) -/

/-- A phase estimate gated by the bound while the time scale is traceable (R44): |e| ≤ 1,000 × (G + B), with G halved for a degraded
estimate, compared exactly. -/
def inGate (s : State) (k : PhaseKind) (x : PhaseEstimate) : Bool :=
  let g := s.site.val (.gate k)
  if x.degraded then decide (2 * (x.e.natAbs : Int) ≤ 1000 * (g + 2 * s.tsu.bound))
  else decide ((x.e.natAbs : Int) ≤ 1000 * (g + s.tsu.bound))

/-- The tolerance of the consistency judgement, in ps (R45). -/
def consistencyLimit : PhaseKind → Nat
  | .pulse => 200000
  | .packet => 2000000

/-- A phase estimate judged by its second difference while the time scale is untraceable (R45). -/
def consistent (k : PhaseKind) (e : Int) : List Int → Bool
  | e1 :: e2 :: _ => decide (((e - e1) - (e1 - e2)).natAbs ≤ consistencyLimit k)
  | _ => true

/-- The earlier estimates a phase estimate is judged against: those the RFE hands with a pulse's, the record's history for a packet's
(R45). The first sample of a record has none, whatever the RFE hands with it (R48; log entry 48). -/
def earlier (s : State) (r : PhaseRef) (x : PhaseEstimate) : List Int :=
  if (s.record (.phase r)).state = .absent then [] else
  match r with
  | .pulse _ => x.before
  | .packet _ => (s.record (.phase r)).history

/-- The judgement of a phase estimate: none where it is good, or the cause that makes it bad (R44, R45). -/
def judge (s : State) (r : PhaseRef) (x : PhaseEstimate) : Option Cause :=
  if s.tsu.traceable then (if inGate s r.kind x then none else some .outOfGate)
  else if consistent r.kind x.e (earlier s r x) then none else some .inconsistent

/-! ## Trails (section 3.4) -/

/-- A transition to state `x` with cause `c` enters a trail: merged into the newest entry for `x` if the causes agree and its age is 0 to
3,600, else prepended; at most 8 entries (R56). -/
def enterTrail (now : Sec) (x : RefState) (c : Cause) (trail : List TrailEntry) : List TrailEntry :=
  let fresh : List TrailEntry := (⟨x, c, now, now, 1⟩ :: trail).take 8
  match trail.find? (fun y => y.state == x) with
  | none => fresh
  | some y =>
    let age := secDiff now y.last
    if y.cause = c ∧ 0 ≤ age ∧ age ≤ 3600 then
      { y with last := now, repeats := satSucc 255 y.repeats } :: trail.eraseP (fun z => z.state == x)
    else fresh

/-- The hold-off that a trail gives on entry to FAULTED: base × 2^min(m − 1, 4) (R57). -/
def holdOffOf (base : Nat) (trail : List TrailEntry) : Nat :=
  match trail.find? (fun y => y.state == .faulted) with
  | none => base
  | some y => base * 2 ^ min (y.repeats - 1) 4

/-- A record moves to a state, and the transition enters its trail (R55, R56). -/
def Work.transition (w : Work) (r : Ref) (x : RefState) (c : Cause) : Work :=
  let now := w.st.tsu.seconds
  (w.on (fun s => s.onRecord r (fun y => { y with state := x, trail := enterTrail now x c y.trail }))).mark r (some c)

/-! ## Disputes (section 3.5) -/

/-- A pair entry is that of two references. -/
def PairEntry.joins (p : PairEntry) (a b : PhaseRef) : Bool := (p.a == a && p.b == b) || (p.a == b && p.b == a)

/-- A pair entry holds a reference. -/
def PairEntry.holds (p : PairEntry) (a : PhaseRef) : Bool := p.a == a || p.b == a

/-- The entry of a pair. -/
def State.pair (s : State) (a b : PhaseRef) : PairEntry := (s.rqu.pairs.find? (fun p => p.joins a b)).getD (.clear a b)

/-- One pair's entry changed. -/
def State.onPair (s : State) (a b : PhaseRef) (f : PairEntry → PairEntry) : State :=
  { s with rqu := { s.rqu with pairs := s.rqu.pairs.map (fun p => if p.joins a b then f p else p) } }

/-- A reference's dispute flag cleared where its partner is `b`, with the partner none and the persistence count 0 (R62, and by log entry 39
R60 and R61). -/
def Work.unmark (w : Work) (a b : PhaseRef) : Work :=
  if (w.st.record (.phase a)).partner = some b then
    (w.on (fun s => s.onRecord (.phase a) (fun y => { y with partner := none, persistence := 0 }))).mark (.phase a) none
  else w

/-- A reference marked disputed with a partner, unless its flag is set already (R61; log entries 16 and 40). -/
def Work.dispute (w : Work) (a b : PhaseRef) : Work :=
  if (w.st.record (.phase a)).partner = none then
    (w.on (fun s => s.onRecord (.phase a) (fun y => { y with partner := some b, persistence := 0 }))).mark (.phase a) none
  else w

/-- A pair leaves dispute: its runs are 0, and each member whose partner is the other has its flag cleared (R62). -/
def Work.clearPair (w : Work) (a b : PhaseRef) : Work :=
  ((w.on (fun s => s.onPair a b (fun p => { p with disagreeRun := 0, agreeRun := 0, inDispute := false }))).unmark a b).unmark b a

/-- Every pair that holds a reference is cleared, as when it leaves OBSERVING or QUALIFIED (R50, R52, R62). -/
def Work.clearPairs (w : Work) : Ref → Work
  | .f1 => w
  | .phase a => (phaseRefs.filter (fun b => b != a)).foldl (fun w b => w.clearPair a b) w

/-! ## Counting (section 3.3) -/

/-- The consistency history that a record, or the RFE for a pulse input, keeps is emptied (R25, R45). -/
def State.forgetHistory (s : State) (r : Ref) : State :=
  let s := s.onRecord r (fun y => { y with history := [] })
  match r with
  | .phase (.pulse p) => s.onPulse p (fun y => { y with lastTwo := [] })
  | _ => s

/-- The fault limit of a reference's kind (R47). -/
def State.faultLimit (s : State) (r : Ref) : Nat := s.site.nat (.faultLimit r.kind)

/-- Entry to FAULTED (R50, R57). -/
def Work.fault (w : Work) (r : Ref) (c : Cause) : Work :=
  let w := w.transition r .faulted c
  let limit := w.st.faultLimit r
  let hold := holdOffOf (w.st.site.nat .holdOffBase) (w.st.record r).trail
  let w := w.on (fun s => s.onRecord r (fun y =>
    { y with faultCount := limit, goodRun := 0, currentHoldOff := hold, holdOff := hold }))
  (w.clearPairs r).on (fun s => s.forgetHistory r)

/-- A bad sample counted in OBSERVING or QUALIFIED; at the fault limit, or above it, the record faults (R47, R50). -/
def Work.countBad (w : Work) (r : Ref) (c : Cause) : Work :=
  if (w.st.record r).state.counts then
    let w := w.on (fun s => s.onRecord r (fun y => { y with goodRun := 0, faultCount := y.faultCount + 1 }))
    if w.st.faultLimit r ≤ (w.st.record r).faultCount then w.fault r c else w
  else w

/-- A good sample counted in OBSERVING or QUALIFIED; at the qualify length, or above it, an OBSERVING record qualifies (R47, R49). -/
def Work.countGood (w : Work) (r : Ref) : Work :=
  if (w.st.record r).state.counts then
    let w := w.on (fun s => s.onRecord r (fun y => { y with faultCount := 0, goodRun := satSucc 65535 y.goodRun }))
    if (w.st.record r).state = .observing ∧ w.st.site.nat (.qualifyLength r.kind) ≤ (w.st.record r).goodRun then
      w.transition r .qualified .goodRun
    else w
  else w

/-- A record in ABSENT enters OBSERVING at its first sample (R48). -/
def Work.firstSample (w : Work) (r : Ref) : Work :=
  if (w.st.record r).state = .absent then w.transition r .observing .firstSample else w

/-! ## Comparison (R58 to R61) -/

/-- A phase reference's last estimate, where the record counts samples and the estimate's age at a time is 0 to 20 (R58, R60). -/
def State.recent (s : State) (at_ : Sec) (b : PhaseRef) : Option Int :=
  let y := s.record (.phase b)
  match y.lastEstimate with
  | none => none
  | some x =>
    let age := secDiff at_ x.time.sec
    if y.state.counts = true ∧ 0 ≤ age ∧ age ≤ 20 then some x.value else none

/-- Two phase errors disagree: they differ by more than the disagreement limit (R58). -/
def State.disagree (s : State) (x y : Int) : Bool :=
  decide (1000 * s.site.val .disagreementLimit < ((x - y).natAbs : Int))

/-- A pair entry after a disagreeing comparison (R59). -/
def PairEntry.disagreed (p : PairEntry) : PairEntry :=
  let run := satSucc 3 p.disagreeRun
  { p with agreeRun := 0, disagreeRun := run, inDispute := p.inDispute || run == 3 }

/-- A pair entry after an agreeing comparison, before it leaves dispute (R59). -/
def PairEntry.agreed (p : PairEntry) : PairEntry :=
  { p with disagreeRun := 0, agreeRun := if p.inDispute then satSucc 3 p.agreeRun else p.agreeRun }

/-- The member that a third reference outvotes: the first candidate, in table order, that agrees with exactly one of the two (R60). -/
def State.outvoted (s : State) (at_ : Sec) (a b : PhaseRef) (ea eb : Int) : Option PhaseRef :=
  phaseRefs.findSome? (fun c =>
    if c = a ∨ c = b then none
    else match s.recent at_ c with
      | none => none
      | some ec =>
        match s.disagree ec ea, s.disagree ec eb with
        | false, true => some b
        | true, false => some a
        | _, _ => none)

/-- A comparison of a pair in dispute resolved: by a third reference (R60), or else by marking (R61). The DISAGREE sample of the member
outvoted leaves the judgement of its held estimate as it was (R41, R46; log entry 49). -/
def Work.resolve (w : Work) (at_ : Sec) (a b : PhaseRef) (ea eb : Int) : Work :=
  match w.st.outvoted at_ a b ea eb with
  | some out => (((w.countBad (.phase out) .disagree).unmark a b).unmark b a)
  | none =>
    if w.st.rqu.selected = some a then (w.dispute b a).unmark a b
    else if w.st.rqu.selected = some b then (w.dispute a b).unmark b a
    else (w.dispute a b).dispute b a

/-- The dispute-persistence count of a member disputed with the other shows the pair's agreement run (R61; log entry 40). -/
def State.showPersistence (s : State) (a b : PhaseRef) : State :=
  let run := (s.pair a b).agreeRun
  let upd (c d : PhaseRef) (s : State) : State :=
    s.onRecord (.phase c) (fun y => if y.partner = some d then { y with persistence := run } else y)
  upd b a (upd a b s)

/-- One comparison of a's estimate with b's last estimate (R59 to R62). -/
def Work.compareWith (w : Work) (at_ : Sec) (a : PhaseRef) (ea : Int) (b : PhaseRef) : Work :=
  match w.st.recent at_ b with
  | none => w
  | some eb =>
    if (w.st.record (.phase a)).state.counts then
      let apart := w.st.disagree ea eb
      let w := w.on (fun s => s.onPair a b (if apart then .disagreed else .agreed))
      let p := w.st.pair a b
      if p.inDispute then
        if p.agreeRun = 3 then w.clearPair a b
        else (w.on (fun s => s.showPersistence a b)).resolve at_ a b ea eb
      else w
    else w

/-- A good phase estimate compared with the other phase references in table order, while its own record counts samples (R58). -/
def Work.compareAll (w : Work) (at_ : Sec) (a : PhaseRef) (ea : Int) : Work :=
  (phaseRefs.filter (fun b => b != a)).foldl (fun w b => w.compareWith at_ a ea b) w

/-! ## Selection (section 3.6) -/

/-- A phase reference is eligible for selection: QUALIFIED, not disputed, priority 1 to 14 (R63). -/
def State.eligible (s : State) (r : PhaseRef) : Bool :=
  let y := s.record (.phase r)
  let p := s.site.val (.priority r)
  y.state == .qualified && y.partner.isNone && decide (1 ≤ p ∧ p ≤ 14)

/-- The better of the choice so far and a candidate: the lower priority number, the earlier in table order where equal (R63). -/
def State.better (s : State) (best : Option PhaseRef) (r : PhaseRef) : Option PhaseRef :=
  if s.eligible r then
    match best with
    | none => some r
    | some b => if s.site.val (.priority r) < s.site.val (.priority b) then some r else some b
  else best

/-- The first eligible reference in the selection order, or none (R63). -/
def State.firstEligible (s : State) : Option PhaseRef := phaseRefs.foldl s.better none

/-- The outcome of an evaluation of the selection (R64). -/
def State.choose (s : State) : Option PhaseRef :=
  if s.site.flag .revertive then s.firstEligible
  else match s.rqu.selected with
    | some r => if s.eligible r then some r else s.firstEligible
    | none => s.firstEligible

/-- What has the selection evaluated: a change of a priority, a change of the revertive setting, or another event (R65). -/
inductive Trigger | priority | revertive | other
  deriving DecidableEq, Repr

/-- The cause a selection change carries (R65; log entry 18). -/
def State.changeCause (s : State) (t : Trigger) (old : Option PhaseRef) : SelectionCause :=
  match old with
  | none => .qualified
  | some r =>
    if (s.record (.phase r)).state = .faulted then .faulted
    else if (s.record (.phase r)).state = .inhibited then .inhibited
    else if t = .priority then .priority
    else .reverted

/-- The selection evaluated afresh (R64, R65). -/
def State.evaluate (s : State) (t : Trigger) : State :=
  let outcome := s.choose
  if outcome = s.rqu.selected then s
  else { s with rqu := { s.rqu with selected := outcome, selectionCause := some (s.changeCause t s.rqu.selected) } }

/-! ## Reporting (section 3.7) -/

/-- The transition an event's notice names: the first reference that made one in the event, with the cause of its latest; or else the
first reference whose dispute flag changed, with no cause (R67; log entry 17). -/
def leadingChange (changes : Changes) : Option (Ref × Option Cause) :=
  match changes.find? (fun x => x.2.isSome) with
  | none => changes.head?
  | some (r, c) => some (r, ((changes.reverse.find? (fun x => x.1 == r && x.2.isSome)).map (·.2)).getD c)

/-- The reference, its state and the cause byte of a REFERENCE CHANGE notice (R67, R197). -/
def State.changeFields (s : State) (t : Trigger) (changes : Changes) : List Byte :=
  let named (r : Ref) (c : Nat) : List Byte := List.flatten [u1 r.index, u1 (s.record r).state.code, u1 c]
  match leadingChange changes with
  | some (r, some c) => named r c.code
  | some (r, none) => named r 0xFF
  | none =>
    let c := match t with
      | .priority => 0x11
      | .revertive => 0x12
      | .other => 0xFF
    match s.rqu.selected with
    | some r => named (.phase r) c
    | none => List.flatten [u1 (refCode none), u1 0, u1 c]

/-- The payload of a REFERENCE CHANGE notice (R67, R197; log entry 33). -/
def State.referenceChange (s : State) (t : Trigger) (changes : Changes) : List Byte :=
  List.flatten
    [uField 2 s.rqu.changeCount, timeField s.now, s.changeFields t changes, u1 (phaseRefCode s.rqu.selected),
     u1 (selectionCode s.rqu.selectionCause), u1 (flagsByte [s.f1Available]),
     (refs.map (fun r => u1 (s.record r).state.code)).flatten,
     u1 (flagsByte (phaseRefs.map (fun r => (s.record (.phase r)).partner.isSome)))]

/-- The RQU adds 1 to its change count, which wraps from 65,535 to 0 (R67). -/
def State.countChange (s : State) : State := { s with rqu := { s.rqu with changeCount := (s.rqu.changeCount + 1) % 65536 } }

/-- An event of the RQU ends: the selection is evaluated, and a change of a record's state, a dispute flag or the selection raises the
change count and places a REFERENCE CHANGE notice for every port (R65, R67; log entry 42). -/
def Work.finish (w : Work) (t : Trigger) : State :=
  let old := w.st.rqu.selected
  let s := w.st.evaluate t
  if w.changes.isEmpty && s.rqu.selected == old then s
  else
    let s := s.countChange
    s.noticeAll .referenceChange (s.referenceChange t w.changes)

/-! ## Taking a sample (R43) -/

/-- The judged phase estimate held for the Discipline Loop (R40, R46). One delivered during settling is never used (R84). -/
def State.hold (s : State) (r : PhaseRef) (x : PhaseEstimate) (good : Bool) : State :=
  s.onRecord (.phase r) (fun y => { y with held := some ⟨x, good, s.dlp.settling.isNone⟩ })

/-- A reference's held latest estimate, where it has one, marked bad (R46, R51). -/
def State.spoilHeld (s : State) (r : Ref) : State :=
  s.onRecord r (fun y => { y with held := y.held.map (fun h => { h with good := false }) })

/-- A good estimate becomes the record's last estimate (R46). -/
def State.keepEstimate (s : State) (r : Ref) (v : Int) (t : Time) (w : Option WindowInfo) : State :=
  s.onRecord r (fun y => { y with lastEstimate := some ⟨v, t, w⟩ })

/-- A packet estimate judged by consistency joins the record's history (R45; log entry 30). -/
def State.keepHistory (s : State) (r : PhaseRef) (e : Int) : State :=
  match r with
  | .pulse _ => s
  | .packet _ =>
    if s.tsu.traceable then s else s.onRecord (.phase r) (fun y => { y with history := (e :: y.history).take 2 })

/-- A phase estimate taken by a record that is not FAULTED or INHIBITED (R43 to R49, R58). -/
def Work.takePhase (w : Work) (r : PhaseRef) (x : PhaseEstimate) : Work :=
  let verdict := judge w.st r x
  let w := w.on (fun s => (s.hold r x verdict.isNone).keepHistory r x.e)
  match verdict with
  | some c => (w.firstSample (.phase r)).countBad (.phase r) c
  | none =>
    let w := w.on (fun s => s.keepEstimate (.phase r) x.e x.time x.window)
    let w := (w.firstSample (.phase r)).countGood (.phase r)
    if (w.st.record (.phase r)).state.counts then w.compareAll x.time.sec r x.e else w

/-- The work of a sample on its record, before selection and report (R43 steps 1 to 3). An estimate taken in FAULTED or INHIBITED is held as
bad, and nothing else of the record changes (R46). Any other sample taken in FAULTED marks the held latest estimate bad (R51), and taken in
INHIBITED changes nothing (R52). A bad sample taken in another state carries no estimate and leaves the one held as it was judged (R46; log
entry 41). -/
def Work.take (w : Work) (r : Ref) (x : Sample) : Work :=
  if (w.st.record r).state = .faulted ∨ (w.st.record r).state = .inhibited then
    match r, x with
    | .phase p, .phase e => w.on (fun s => s.hold p e false)
    | _, _ => if (w.st.record r).state = .faulted then w.on (fun s => s.spoilHeld r) else w
  else match r, x with
    | .phase p, .phase e => w.takePhase p e
    | _, .bad c _ => (w.firstSample r).countBad r c
    | _, .offset d t => ((w.on (fun s => s.keepEstimate r d t none)).firstSample r).countGood r
    | .f1, .phase _ => w

/-- The RQU takes a sample; until loading ends it takes none (R43). -/
def State.sample (s : State) (r : Ref) (x : Sample) : State :=
  if s.stc.store.isLoading then s else (Work.take ⟨s, []⟩ r x).finish .other

/-! ## Hold-off and inhibit (R51 to R53) -/

/-- A reference's input is present (R24, R28, R32, R51). -/
def State.inputPresent (s : State) (r : Ref) : Bool :=
  match r with
  | .phase (.pulse p) => (s.rfe.pulses.get p).seen || (s.rfe.pulses.get p).prevSeen
  | .f1 => s.rfe.f1.edgesSeen
  | .phase (.packet k) =>
    match (s.rfe.windows.get k).lastAccepted with
    | none => false
    | some t => decide (secDiff s.tsu.seconds t.sec ≤ (s.stalePeriod k : Int))

/-- A packet reference's stale timer stops where the record enters ABSENT or INHIBITED (R33). -/
def State.stopTimerOf (s : State) (r : Ref) : State :=
  match r with
  | .phase (.packet k) => s.stopTimer k
  | _ => s

/-- Counts and hold-off remaining set to 0 (R51 to R53). -/
def State.zeroCounts (s : State) (r : Ref) : State :=
  s.onRecord r (fun y => { y with faultCount := 0, goodRun := 0, holdOff := 0 })

/-- The expiry of a hold-off (R51). -/
def Work.expire (w : Work) (r : Ref) : Work :=
  if w.st.inputPresent r then (w.transition r .observing .holdOffEnd).on (fun s => s.zeroCounts r)
  else (w.transition r .absent .noInput).on (fun s => ((s.zeroCounts r).stopTimerOf r).forgetHistory r)

/-- What entry to INHIBITED clears, beside the transition itself (R52): counts, hold-off, last estimate, histories; for a packet
reference the window is flushed and its timer stopped. -/
def State.inhibitEffects (s : State) (r : Ref) : State :=
  let s := ((s.zeroCounts r).onRecord r (fun y => { y with lastEstimate := none })).forgetHistory r
  match r with
  | .phase (.packet k) => (s.flushWindow k).stopTimer k
  | _ => s

/-- Entry to INHIBITED by a change of the setting (R52). -/
def Work.inhibit (w : Work) (r : Ref) : Work :=
  if (w.st.record r).state = .inhibited then w
  else ((w.transition r .inhibited .inhibit).on (fun s => s.inhibitEffects r)).clearPairs r

/-- The inhibit setting changed from on to off (R53). -/
def Work.release (w : Work) (r : Ref) : Work :=
  if (w.st.record r).state = .inhibited then
    (w.transition r .absent .inhibitCleared).on (fun s => ((s.zeroCounts r).stopTimerOf r).forgetHistory r)
  else w

/-- The entry to INHIBITED at the end of loading, of each record whose inhibit setting is on: no trail entry and no notice (R43). The entries
are one event, which adds 1 to the change count where a record's state changes (R67). -/
def State.inhibitAtStart (s : State) : State :=
  let u := (refs.foldl (fun u r =>
    if u.inhibited r then (u.onRecord r (fun y => { y with state := .inhibited })).inhibitEffects r else u) s).evaluate .other
  if refs.any (fun r => (u.record r).state != (s.record r).state) || u.rqu.selected != s.rqu.selected then u.countChange else u

/-- A lowered fault limit: the fault count of a counting record at or above it becomes one less (R50). -/
def State.lowerFaultLimit (s : State) (k : Kind) : State :=
  refs.foldl (fun s r =>
    if r.kind = k ∧ (s.record r).state.counts = true ∧ s.faultLimit r ≤ (s.record r).faultCount then
      s.onRecord r (fun y => { y with faultCount := s.faultLimit r - 1 })
    else s) s

/-- HOLD_OFF_EXPIRY (R51): the hold-off of a FAULTED record has reached 0. An expiry that is not due changes nothing (log entry 5). -/
def execHoldOffExpiry (r : Ref) (s : State) : Host.Outcome State Fault Refusal :=
  whileRunning s (fun s =>
    if (s.record r).state = .faulted ∧ (s.record r).holdOff = 0 then (Work.expire ⟨s, []⟩ r).finish .other else s)

/-! ## REFERENCE GET (R68) -/

/-- A signed field of a value or zeros where it is absent (R195). -/
def optInt (n : Nat) : Option Int → List Byte
  | none => absent n
  | some v => sField n v

/-- A count field or zeros where it is absent (R195). -/
def optNat (n : Nat) : Option Nat → List Byte
  | none => absent n
  | some v => uField n v

/-- A trail entry: 14 bytes (R198). -/
def TrailEntry.bytes (x : TrailEntry) : List Byte :=
  List.flatten [u1 (32 * x.state.code + x.cause.code), secField x.first, secField x.last, u1 x.repeats]

/-- The kind bits of a reference (R198). -/
def kindBits : Kind → List Bool
  | .pulse => [false, false]
  | .packet => [true, false]
  | .frequency => [false, true]

/-- A field that phase references alone have (R68). -/
def phaseOnly (r : Ref) (n : Nat) (f : PhaseRef → List Byte) : List Byte :=
  match r with
  | .phase p => f p
  | .f1 => absent n

/-- The priority of a phase reference (R68). -/
def State.priorityField (s : State) (r : Ref) : List Byte := phaseOnly r 1 (fun p => u1 (s.site.nat (.priority p)))

/-- The receiver state, satellites in use and unlabelled-run count of a pulse reference (R68, R198; log entry 26). -/
def State.receiverFields (s : State) (r : Ref) : List Byte :=
  match r with
  | .phase (.pulse p) =>
    let y := s.rfe.pulses.get p
    match y.lastRx with
    | some (rx, sats) => List.flatten [u1 rx.code, u1 sats, u1 y.unlabelledRun]
    | none => List.flatten [u1 0xFF, u1 0, u1 y.unlabelledRun]
  | _ => List.flatten [u1 0xFF, u1 0, u1 0]

/-- The window count of a packet reference, and whether its stale timer runs (R68). -/
def State.windowOf (s : State) (r : Ref) : Nat × Bool :=
  match r with
  | .phase (.packet k) => ((s.rfe.windows.get k).reports.length, (s.rfe.windows.get k).timer.isSome)
  | _ => (0, false)

/-- Section 0 of REFERENCE GET: 37 bytes (R198; the F1-available and inhibit bits by log entry 47). F1, which has no dispute partner, shows
07h, "none", in that byte (log entry 26). -/
def State.referenceSection0 (s : State) (r : Ref) : List Byte :=
  let y := s.record r
  let last := y.lastEstimate
  let info := last.bind (·.window)
  let selected := decide (s.rqu.selected.map Ref.phase = some r)
  List.flatten
    [u1 0, u1 r.index, u1 0, u1 y.state.code,
     u1 (flagsByte (List.append (kindBits r.kind)
       [s.inhibited r, selected, r == .f1 && s.f1Available, y.partner.isSome, last.isSome, (s.windowOf r).2])),
     s.priorityField r, u1 y.faultCount, uField 2 y.goodRun, uField 2 y.holdOff, uField 2 y.currentHoldOff,
     optInt 6 (last.map (·.value)), (last.map (fun x => secField x.time.sec)).getD (absent 6),
     optNat 1 (info.map (·.n)), optNat 1 (info.map (·.k)), optNat 1 (info.map (·.grade)),
     u1 (phaseRefCode y.partner), u1 y.persistence, s.receiverFields r, u1 (s.windowOf r).1, uField 2 s.rqu.changeCount,
     u1 y.trail.length]

/-- Sections 1 and 2 of REFERENCE GET: the change count and four trail entries (R198). -/
def State.referenceTrail (s : State) (r : Ref) (sect : Nat) : List Byte :=
  List.flatten
    [u1 0, u1 r.index, u1 sect, uField 2 s.rqu.changeCount,
     ((((s.record r).trail.drop (4 * (sect - 1))).take 4).map TrailEntry.bytes).flatten]

/-- The response to REFERENCE GET (R68, R198). -/
def State.referenceResponse (s : State) (index sect : Byte) : List Byte :=
  match refs[index.toNat]? with
  | none => resultOnly .malformed
  | some r =>
    if sect.toNat = 0 then s.referenceSection0 r
    else if sect.toNat ≤ 2 then s.referenceTrail r sect.toNat
    else resultOnly .malformed

/-- The owner's answer to REFERENCE GET: it changes nothing but the queue (R68). -/
def answerReferenceGet (k : Port) (index sect : Byte) (s : State) : State :=
  s.respond k 0x07 (s.referenceResponse index sect)

end Sys2Proof.Machine
end

