-- ==== Sys2Proof/Machine/FrontEnd.lean ====
section
/-! DEFINITION. The Reference Front End (chapter 2): pulses and companion records, the F1 gate, offset reports, windows and stale
timers. -/

namespace Sys2Proof.Machine

open Sys2Proof

/-! ## Companion records (R18) -/

/-- The fields of a record, if it is valid: its bytes sum to 0 modulo 256 and its receiver-state field holds one of the four states
(R18). -/
def companionOf (record : List Byte) : Option Companion :=
  match RxState.ofCode (natOf (slice 7 1 record)) with
  | none => none
  | some rx =>
    if sumsToZero record then
      some { label := secOf (slice 1 6 record), rx := rx, sats := natOf (slice 8 1 record) % 64, q := intOf (slice 9 2 record) }
    else none

/-- A valid companion becomes the pending one, and its receiver state and satellites in use are kept (R18). -/
def PulseInput.companion (y : PulseInput) (c : Companion) : PulseInput :=
  { y with pending := some c, lastRx := some (c.rx, c.sats) }

/-- No companion record is being received: the last one is complete, or a pulse has ended its reception (R18). -/
def PulseInput.endReception (y : PulseInput) : PulseInput := { y with receiving := [] }

/-- A record of twelve bytes taken at the arrival of its last: a valid one becomes the pending companion, any other is discarded (R18). -/
def PulseInput.takeRecord (y : PulseInput) (record : List Byte) : PulseInput :=
  match companionOf record with
  | some c => y.endReception.companion c
  | none => y.endReception

/-- A byte arrives on the companion line: discarded where no record is being received and it is not the start byte A5h, else received; the
twelfth byte completes the record (R18, section 11.4). -/
def PulseInput.receive (y : PulseInput) (b : Byte) : PulseInput :=
  if y.receiving.isEmpty && b != 0xA5#8 then y
  else
    let record := List.append y.receiving [b]
    if record.length < 12 then { y with receiving := record } else y.takeRecord record

/-- COMPANION_RECORD (R18): the bytes are received in their order (log entry 28). -/
def execCompanionRecord (p : PulseIn) (bytes : List Byte) (s : State) : Host.Outcome State Fault Refusal :=
  whileRunning s (fun s => s.onPulse p (fun y => bytes.foldl PulseInput.receive y))

/-! ## Pulses (R17, R19 to R25) -/

/-- A phase rounded down to a multiple of 250 ps (R17). -/
def stampPhase (phase : Nat) : Nat := phase / 250 * 250

/-- The stamp of an event: the seconds count and the rounded phase (R17). -/
def State.stamp (s : State) : Time := ⟨s.tsu.seconds, stampPhase s.tsu.phase⟩

/-- The label of the reading epoch and the reading x of a stamp (R17). -/
def Tsu.reading (x : Tsu) : Sec × Int :=
  let φ := stampPhase x.phase
  if 2 * φ ≤ x.interval then (x.seconds, (φ : Int)) else (x.seconds + 1, (φ : Int) - x.interval)

/-- What a pulse carries once its label is settled (R20). -/
structure PulseLabel where
  label : Sec
  q : Int
  coarse : Bool
  rx : RxState

/-- The label and quantisation correction a pulse takes, and the input after it: from the pending companion, inferred, or none (R20). -/
def PulseInput.takeLabel (y : PulseInput) : PulseInput × Option PulseLabel :=
  match y.pending with
  | some c => ({ y with pending := none, unlabelledRun := 0 }, some ⟨c.label, c.q, false, c.rx⟩)
  | none =>
    let run := satSucc 3 y.unlabelledRun
    let y' := { y with unlabelledRun := run }
    match y.lastLabel with
    | some l => (y', if run ≤ 2 then some ⟨l + 1, 0, true, (y.lastRx.map (·.1)).getD .fix⟩ else none)
    | none => (y', none)

/-- A record of a pulse input takes no sample from the RFE while it is INHIBITED (R25). -/
def State.deliverPulse (s : State) (p : PulseIn) (x : Sample) : State :=
  let r : Ref := .phase (.pulse p)
  if (s.record r).state = .inhibited then s else s.sample r x

/-- The last two estimates take a new one, except in FAULTED and INHIBITED (R23, R25). -/
def State.keepPulse (s : State) (p : PulseIn) (e : Int) (t : Time) : State :=
  let st := (s.record (.phase (.pulse p))).state
  if st = .faulted ∨ st = .inhibited then s
  else s.onPulse p (fun y => { y with lastTwo := ((e, t) :: y.lastTwo).take 2 })

/-- The estimate of a pulse: e = c + q − x, with its marks and the estimates before it (R23). -/
def State.pulseEstimate (s : State) (p : PulseIn) (l : PulseLabel) : PhaseEstimate :=
  { e := s.site.val (.cableDelay p) + l.q - s.tsu.reading.2, time := s.stamp, toSec := l.label, fromSec := s.tsu.reading.1,
    coarse := l.coarse, degraded := l.rx == .degraded, before := (s.rfe.pulses.get p).lastTwo.map (·.1), window := none }

/-- A labelled pulse measured, or rejected by the receiver's state or its label (R21 to R23). -/
def State.measurePulse (s : State) (p : PulseIn) (l : PulseLabel) : State :=
  if l.rx = .noFix then s.deliverPulse p (.bad .receiver s.stamp)
  else if s.tsu.traceable = true ∧ l.label ≠ s.tsu.reading.1 then s.deliverPulse p (.bad .label s.stamp)
  else
    let x := s.pulseEstimate p l
    let s := s.onPulse p (fun y => { y with lastLabel := some l.label })
    (s.deliverPulse p (.phase x)).keepPulse p x.e x.time

/-- A pulse handled (R18, R19): it ends a companion record's reception, and the second and later ones of a sample interval are EXTRA
PULSE. -/
def State.pulse (s : State) (p : PulseIn) : State :=
  let s := s.onPulse p PulseInput.endReception
  let y := s.rfe.pulses.get p
  if y.seen then s.deliverPulse p (.bad .extraPulse s.stamp)
  else
    let took := { y with seen := true }.takeLabel
    let s := s.onPulse p (fun _ => took.1)
    match took.2 with
    | none => s.deliverPulse p (.bad .label s.stamp)
    | some l => s.measurePulse p l

/-- PULSE_ARRIVAL (R19), at phase `t`. -/
def execPulseArrival (p : PulseIn) (t : Nat) (s : State) : Host.Outcome State Fault Refusal :=
  whileRunning s (fun s => (s.advanceTo t).pulse p)

/-- The sample that the close of a pulse input's sample interval delivers: LOSS where no pulse was seen and the record is OBSERVING or
QUALIFIED (R24). -/
def State.pulseLoss (s : State) (p : PulseIn) : Option Sample :=
  if (s.rfe.pulses.get p).seen = false ∧ (s.record (.phase (.pulse p))).state.counts = true then some (.bad .loss s.now) else none

/-- The close of a sample interval: the pulse-seen flag moves to the previous flag (R24). -/
def State.closeInterval (s : State) (p : PulseIn) : State :=
  s.onPulse p (fun y => { y with prevSeen := y.seen, seen := false })

/-! ## F1 (R26 to R28) -/

/-- An F1 edge stamped in the gate in progress: the first, or the latest (R26). -/
def F1Input.edge (y : F1Input) (phase : Nat) : F1Input :=
  let φ := stampPhase phase
  match y.gate with
  | none => { y with gate := some { first := φ, latest := φ, carried := 0, cycles := 0 } }
  | some g => { y with gate := some { g with latest := g.carried + φ, cycles := g.cycles + 1 } }

/-- An epoch passes in a gate that holds an edge: the closed interval's length is carried (R26). -/
def F1Input.epoch (y : F1Input) (length : Nat) : F1Input :=
  { y with gate := y.gate.map (fun g => { g with carried := g.carried + length }) }

/-- F1_EDGE (R26), at phase `t`. -/
def execF1Edge (t : Nat) (s : State) : Host.Outcome State Fault Refusal :=
  whileRunning s (fun s =>
    let s := s.advanceTo t
    { s with rfe := { s.rfe with f1 := s.rfe.f1.edge s.tsu.phase } })

/-- The offset d measured between the first and the last edge of a gate: exact before the one nearest rounding (R26). -/
def measuredOffset (period : Int × Int) (g : F1Gate) : Int :=
  let whole : Int := g.cycles * period.1
  nearest (1000000000000 * (((g.latest : Int) - g.first) * period.2 - whole)) whole

/-- What the close of an F1 gate measures: the sample by R27 with the time of the update that closes it (R28), the new previous d, and the
edges-seen flag. -/
def State.closeGate (s : State) : Option Sample × F1Input :=
  let y := s.rfe.f1
  match y.gate with
  | none => (if (s.record .f1).state.counts then some (.bad .loss s.now) else none, { gate := none, prevD := none, edgesSeen := false })
  | some g =>
    if g.cycles = 0 then (some (.bad .range s.now), { gate := none, prevD := none, edgesSeen := true })
    else
      let d := measuredOffset s.site.f1Period g
      if 10000000 < d.natAbs then (some (.bad .range s.now), { gate := none, prevD := none, edgesSeen := true })
      else
        let kept : F1Input := { gate := none, prevD := some d, edgesSeen := true }
        match y.prevD with
        | some d0 =>
          if s.site.val .f1Gate < ((d - d0).natAbs : Int) then (some (.bad .gate s.now), kept) else (some (.offset d s.now), kept)
        | none => (some (.offset d s.now), kept)

/-- The F1 sample delivered at the close of a gate: none while the record is INHIBITED (R28). -/
def State.f1Sample (s : State) : Option Sample :=
  if (s.record .f1).state = .inhibited then none else s.closeGate.1

/-! ## Windows (R29 to R38) -/

/-- A report put into a list in order of path delay, after those of equal delay (R36). -/
def insertReport (x : Report) : List Report → List Report
  | [] => [x]
  | y :: ys => if x.delay < y.delay then x :: y :: ys else y :: insertReport x ys

/-- Reports ordered by path delay, lowest first; equal delays by arrival (R36). -/
def byDelay (xs : List Report) : List Report := xs.foldl (fun acc x => insertReport x acc) []

/-- The number of reports an estimate takes: ceiling(n / 4) (R36). -/
def quarter (n : Nat) : Nat := (n + 3) / 4

/-- The reports that an estimate takes (R36). -/
def takenReports (xs : List Report) : List Report := (byDelay xs).take (quarter xs.length)

/-- The master second a report names: its master-time seconds, plus 1 from 500,000,000 ns on (R82). -/
def Report.masterSecond (x : Report) : Sec := if 500000000 ≤ x.masterNs then x.masterSec + 1 else x.masterSec

/-- The estimate of the reports in a window (R36): nearest rounding of the mean offset of the taken reports, less the channel's pulse
delay; with the newest report's seconds for an alignment (R82), and the highest grade taken as a number (log entry 13). -/
def State.windowEstimate (s : State) (k : Port) (xs : List Report) (newest : Report) : PhaseEstimate :=
  let took := takenReports xs
  let total := (took.map (·.offset)).foldl (· + ·) 0
  { e := nearest total took.length - 1000 * (s.oc.get k).settings.delay
    time := s.now
    toSec := newest.masterSecond
    fromSec := newest.accepted.sec
    coarse := false
    degraded := false
    before := []
    window := some { n := xs.length, k := took.length, grade := (took.map (·.grade)).foldl max 0 } }

/-- A window's reports discarded, and its stale timer started with the stale period. -/
def State.emptyWindow (s : State) (k : Port) : State :=
  s.onWindow k (fun w => { w with reports := [], timer := some (s.stalePeriod k) })

/-- The close of a window: the estimate of its reports is delivered, the window emptied and the timer restarted (R36), also where a lowered
threshold closes it while the timer is stopped (log entry 37). -/
def State.closeWindow (s : State) (k : Port) : State :=
  let xs := (s.rfe.windows.get k).reports
  match xs.getLast? with
  | none => s.emptyWindow k
  | some newest => (s.emptyWindow k).sample (.phase (.packet k)) (.phase (s.windowEstimate k xs newest))

/-- The window threshold of a packet reference (section 2.4). -/
def State.threshold (s : State) (k : Port) : Nat := s.site.nat (.windowThreshold k)

/-- A report appended to a window; at the threshold the window closes (R32). -/
def State.appendReport (s : State) (k : Port) (x : Report) : State :=
  let s := s.onWindow k (fun w =>
    { reports := List.append w.reports [x], timer := some (s.stalePeriod k), lastAccepted := some s.now })
  if (s.rfe.windows.get k).reports.length = s.threshold k then s.closeWindow k else s

/-- The report that an OFFSET REPORT's fields spell, accepted now. -/
def State.reportOf (s : State) (f : OffsetFields) : Report :=
  { sequence := f.sequence.toNat, masterSec := f.masterSec, masterNs := f.masterNs.toNat, offset := f.offset.toInt,
    delay := f.delay.toNat, grade := f.grade.toNat, accepted := s.now }

/-- Bit 0 of the flags byte: the tenant's master has changed (section 11.4). -/
def OffsetFieldsMasterChanged (f : OffsetFields) : Bool := f.flags.getLsbD 0

/-- The result of an OFFSET REPORT: MALFORMED by R29, or else the first check of R30 that applies (log entry 14). -/
def State.checkReport (s : State) (k : Port) (before : PortState) (f : OffsetFields) : ResultCode :=
  if 1000000000 ≤ f.masterNs.toNat ∨ f.grade.toNat = 0 ∨ 4 < f.grade.toNat then .malformed
  else if before = .suspect then .suspect
  else if (s.oc.get k).state.isQuiet then .quiet
  else if (s.record (.phase (.packet k))).state = .inhibited then .inhibited
  else if s.tsu.traceable = true ∧ 16 < secDiff s.tsu.seconds f.masterSec then .tooOld
  else if OffsetFieldsMasterChanged f then .ok
  else if (s.rfe.windows.get k).reports.any (fun x => x.sequence == f.sequence.toNat) then .duplicate
  else .ok

/-- The effect of an OFFSET REPORT on its window (R30 to R32). -/
def State.takeReport (s : State) (k : Port) (before : PortState) (f : OffsetFields) : State :=
  if s.checkReport k before f = .ok then
    let s := if OffsetFieldsMasterChanged f then s.flushWindow k else s
    s.appendReport k (s.reportOf f)
  else s

/-- The owner's answer to OFFSET REPORT: the result, and the window count after the request (R32, R195). `before` is the port's state
before the frame (R173). The REFERENCE CHANGE notice of a window that the report closes joins the requesting port's queue before the response
(log entry 19). -/
def answerOffsetReport (k : Port) (before : PortState) (f : OffsetFields) (s : State) : State :=
  let result := s.checkReport k before f
  let s := s.takeReport k before f
  s.respond k 0x06 (List.append (u1 result.code) (u1 (s.rfe.windows.get k).reports.length))

/-- The expiry of a stale timer (R34): a close with 4 reports or more, THIN WINDOW with 1 to 3, STALE with none; the timer restarts. -/
def State.staleExpiry (s : State) (k : Port) : State :=
  let n := (s.rfe.windows.get k).reports.length
  if 4 ≤ n then s.closeWindow k
  else
    let c : Cause := if n = 0 then .stale else .thinWindow
    (s.emptyWindow k).sample (.phase (.packet k)) (.bad c s.now)

/-- STALE_TIMER_EXPIRY (R34). An expiry that is not due, because the timer is stopped or has been restarted, changes nothing (R35; log
entry 5). -/
def execStaleTimerExpiry (k : Port) (s : State) : Host.Outcome State Fault Refusal :=
  whileRunning s (fun s => if (s.rfe.windows.get k).timer = some 0 then s.staleExpiry k else s)

/-- A changed window threshold closes a window that already holds as many reports (R36). -/
def State.thresholdChanged (s : State) (k : Port) : State :=
  let n := (s.rfe.windows.get k).reports.length
  if 0 < n ∧ s.threshold k ≤ n then s.closeWindow k else s

end Sys2Proof.Machine
end

