-- ==== Sys2Proof/Machine/Channels.lean ====
section
/-! DEFINITION. The tenant output channels (chapter 8): settings, state, pulses, the budget and time marks. -/

namespace Sys2Proof.Machine

open Sys2Proof

/-! ## Channel state (R161) -/

/-- The channel state that the settings, the traceable flag and the over-budget flag give (R161). -/
def Channel.evaluated (c : Channel) (traceable : Bool) : ChannelState :=
  if c.settings.enabled = false then .quiet .disabled
  else if c.settings.requireTraceable = true ∧ traceable = false then .quiet .untraceable
  else if c.settings.action = .squelch ∧ c.overBudget = true then .quiet .overBudget
  else .active

/-- The pulse in progress, if any, ends: the line returns to the resting level of the polarity in force from then on (R159, R163). -/
def Channel.endPulse (c : Channel) : Channel := { c with pulseEnd := none, linePolarity := c.settings.polarity }

/-- The state evaluated afresh; at a transition from ACTIVE to QUIET the pulse in progress ends and the window is flushed (R161). -/
def State.evaluateChannel (s : State) (k : Port) : State :=
  let c := s.oc.get k
  let x := c.evaluated s.tsu.traceable
  if c.state = .active ∧ x.isQuiet = true then
    (s.onChannel k (fun c => { c with state := x }.endPulse)).flushWindow k
  else s.onChannel k (fun c => { c with state := x })

/-! ## Pulses (R162, R163) -/

/-- A delay in ps. -/
def ChannelSettings.delayPs (x : ChannelSettings) : Int := 1000 * x.delay

/-- The phase at which the channel's pulse of the current interval is due, if it is not served yet (R162). -/
def Channel.duePhase (c : Channel) (length : Nat) : Option Nat :=
  if 0 ≤ c.settings.delay then (if c.openingServed then none else some c.settings.delayPs.toNat)
  else if c.closingServed then none
  else some ((length : Int) + c.settings.delayPs).toNat

/-- The label of the epoch whose pulse is due: the current count for D ≥ 0, that count plus 1 for D < 0 (R162). -/
def Channel.dueLabel (c : Channel) (seconds : Sec) : Sec := if 0 ≤ c.settings.delay then seconds else seconds + 1

/-- The served mark of the epoch whose pulse is due, set (R162). -/
def Channel.serve (c : Channel) : Channel :=
  if 0 ≤ c.settings.delay then { c with openingServed := true } else { c with closingServed := true }

/-- A pulse begins at the phase `at_`: the label, and the instant it is due to end (R162, R163). -/
def Channel.beginPulse (c : Channel) (at_ : Nat) (label : Sec) : Channel :=
  { c with pulseEnd := some (at_ + 1000 * c.settings.width), lastLabel := some label, linePolarity := c.settings.polarity }

/-- A due instant reached: the pulse is emitted if the channel is ACTIVE, or passed over if it is QUIET; either way it is served
(R162). -/
def State.servePulse (s : State) (k : Port) (at_ : Nat) : State :=
  let label := (s.oc.get k).dueLabel s.tsu.seconds
  s.onChannel k (fun c => (match c.state with
    | .active => c.beginPulse at_ label
    | .quiet _ => c).serve)

/-- PULSE_DUE of channel OCk (R162), at its due phase. Where no pulse of the interval is left to serve, it changes nothing (log
entry 5). -/
def execPulseDue (k : Port) (s : State) : Host.Outcome State Fault Refusal :=
  whileRunning s (fun s =>
    match (s.oc.get k).duePhase s.tsu.interval with
    | none => s
    | some at_ => (s.advanceTo at_).servePulse k at_)

/-- The channel's next due instant, in ps from the epoch that opened the interval in progress: the first whose epoch's served mark is
clear, in this interval, at its end, or at the end of the next, whose length the pending remainder gives (R162, R163). -/
def Channel.nextDue (c : Channel) (length next : Nat) : Option Int :=
  if 0 ≤ c.settings.delay then
    if c.openingServed = false then some c.settings.delayPs
    else if c.closingServed = false then some ((length : Int) + c.settings.delayPs)
    else some ((length : Int) + next + c.settings.delayPs)
  else if c.closingServed = false then some ((length : Int) + c.settings.delayPs)
  else some ((length : Int) + next + c.settings.delayPs)

/-- The length of the interval that the next epoch opens (R8). -/
def Tsu.nextInterval (x : Tsu) : Nat := ((Config.second : Int) - x.remainder.getD 0).toNat

/-- The instant a pulse in progress ends: the one recorded, or 100 ns before the next due instant where that is earlier (R163; log entry
43). -/
def Channel.endInstant (c : Channel) (length next : Nat) : Option Nat :=
  c.pulseEnd.map (fun e =>
    match c.nextDue length next with
    | none => e
    | some d => if d - 100000 < (e : Int) then (d - 100000).toNat else e)

/-- PULSE_END of channel OCk (R163), at the pulse's end instant. Without a pulse in progress, or before the epoch that the end instant
follows, it changes nothing (log entry 5). -/
def execPulseEnd (k : Port) (s : State) : Host.Outcome State Fault Refusal :=
  whileRunning s (fun s =>
    match (s.oc.get k).endInstant s.tsu.interval s.tsu.nextInterval with
    | none => s
    | some e => if e < s.tsu.interval then (s.advanceTo e).onChannel k Channel.endPulse else s)

/-- The marks and the pulse's instant moved by an epoch that closes an interval of length `length` (R162). -/
def Channel.epoch (c : Channel) (length : Nat) : Channel :=
  { c with openingServed := c.closingServed, closingServed := false, pulseEnd := c.pulseEnd.map (fun e => e - length) }

/-! ## Budget (R165, R167) -/

/-- The over-budget flag after a check (R165). -/
def budgetFlag (flag : Bool) (bound limit : Nat) : Bool :=
  if flag then !decide (4 * bound ≤ 3 * limit) else decide (limit ≤ bound)

/-- The payload of a BUDGET notice: 24 bytes (R167, R197). -/
def State.budgetNotice (s : State) (k : Port) : List Byte :=
  let c := s.oc.get k
  List.flatten
    [timeField s.now, u1 (flagsByte [c.overBudget]), uField 4 s.tsu.bound, u1 s.tsu.cls, uField 4 c.settings.limit,
     u1 c.settings.action.code, u1 c.state.code]

/-- The budget check of one channel: the flag, the state, and a BUDGET notice on its own port where the flag changed (R165, R167). -/
def State.budgetCheck (s : State) (k : Port) : State :=
  let c := s.oc.get k
  let flag := budgetFlag c.overBudget s.tsu.bound c.settings.limit
  let s := (s.onChannel k (fun c => { c with overBudget := flag })).evaluateChannel k
  if flag = c.overBudget then s else s.notice k .budget (s.budgetNotice k)

/-- The budget checks of all channels (R165). -/
def State.budgetChecks (s : State) : State := ports.foldl State.budgetCheck s

/-! ## Time marks (R168, R169) -/

/-- The payload of a TIME MARK notice: 14 bytes, announcing the current seconds count plus 1 (R168, R169, section 11.5). -/
def State.timeMark (s : State) (k : Port) : List Byte :=
  let c := s.oc.get k
  List.flatten
    [secField (s.tsu.seconds + 1), u1 s.tsu.cls, uField 4 s.tsu.bound, u1 s.dlp.engine.code,
     u1 (flagsByte [s.tsu.traceable, c.overBudget]), u1 c.state.code]

/-- Each channel with time marks on places a TIME MARK for its own port (R168, R169). -/
def State.timeMarks (s : State) : State :=
  ports.foldl (fun s k => if (s.oc.get k).settings.timeMarks then s.notice k .timeMark (s.timeMark k) else s) s

/-! ## CHANNEL SET and CHANNEL GET (R158 to R160) -/

/-- An on/off byte of a request (R195). -/
def onOffOf (b : Byte) : Option Bool := if b.toNat = 0 then some false else if b.toNat = 1 then some true else none

/-- A polarity byte (R195). -/
def polarityOf (b : Byte) : Option Polarity := if b.toNat = 0 then some .positive else if b.toNat = 1 then some .negative else none

/-- A budget-action byte (R195). -/
def actionOf (b : Byte) : Option BudgetAction := if b.toNat = 0 then some .report else if b.toNat = 1 then some .squelch else none

/-- The settings a CHANNEL SET request carries, before clamping; none where a choice names none of its values (R158). -/
def channelSettingsOf (f : ChannelFields) : Option ChannelSettings :=
  match polarityOf f.polarity, actionOf f.action, onOffOf f.requireTrac, onOffOf f.timeMarks, onOffOf f.enabled with
  | some p, some a, some rt, some tm, some en =>
    some { delay := f.delay.toInt, width := f.width.toNat, polarity := p, limit := f.limit.toNat, action := a,
           requireTraceable := rt, timeMarks := tm, enabled := en }
  | _, _, _, _, _ => none

/-- Each numeric setting replaced by the nearer end of its range where it lies outside (R157, R158). -/
def ChannelSettings.clamped (x : ChannelSettings) : ChannelSettings :=
  { x with
    delay := clamp (-1000000) 1000000 x.delay
    width := (clamp 100 500000000 x.width).toNat
    limit := (clamp 10 4000000000 x.limit).toNat }

/-- The served marks adjusted by a change of D, taken at a phase of an interval (R162). -/
def Channel.adjustMarks (c : Channel) (phase length : Nat) : Channel :=
  let d := c.settings.delayPs
  { c with
    openingServed := c.openingServed || decide (d < 0) || decide (d < (phase : Int))
    closingServed := c.closingServed || (decide (d < 0) && decide ((length : Int) + d < (phase : Int))) }

/-- The eight settings applied (R159): D by R162, the polarity at once unless a pulse is in progress. -/
def Channel.apply (c : Channel) (x : ChannelSettings) (phase length : Nat) : Channel :=
  let c' := { c with settings := x, linePolarity := if c.pulseEnd.isNone then x.polarity else c.linePolarity }
  if x.delay = c.settings.delay then c' else c'.adjustMarks phase length

/-- The settings applied to a channel: a change of D flushes the window, and the state is evaluated afresh (R159, R161). -/
def State.applyChannel (s : State) (k : Port) (x : ChannelSettings) : State :=
  let changed := decide (x.delay ≠ (s.oc.get k).settings.delay)
  let s := s.onChannel k (fun c => c.apply x s.tsu.phase s.tsu.interval)
  let s := if changed then s.flushWindow k else s
  s.evaluateChannel k

/-- The 17 bytes of a channel's settings (section 11.5). -/
def ChannelSettings.bytes (x : ChannelSettings) : List Byte :=
  List.flatten
    [sField 4 x.delay, uField 4 x.width, uField 4 x.limit, u1 x.polarity.code, u1 x.action.code, u1 (onOff x.requireTraceable),
     u1 (onOff x.timeMarks), u1 (onOff x.enabled)]

/-- The OK or CLAMPED response to CHANNEL SET: 20 bytes (section 11.5). -/
def State.channelSetResponse (s : State) (k : Port) (r : ResultCode) : List Byte :=
  let c := s.oc.get k
  List.flatten [u1 r.code, c.settings.bytes, u1 c.state.code, u1 (onOff c.overBudget)]

/-- The owner's answer to CHANNEL SET (R158). -/
def answerChannelSet (k : Port) (f : ChannelFields) (s : State) : State :=
  match channelSettingsOf f with
  | none => s.respond k 0x0E (resultOnly .malformed)
  | some x =>
    let s := s.applyChannel k x.clamped
    s.respond k 0x0E (s.channelSetResponse k (if x.clamped = x then .ok else .clamped))

/-- The response to CHANNEL GET: 32 bytes (R160, R197). -/
def State.channelGetResponse (s : State) (k : Port) : List Byte :=
  let c := s.oc.get k
  List.flatten
    [u1 0, c.settings.bytes, u1 c.state.code, u1 (onOff c.overBudget), uField 4 s.tsu.bound, u1 s.tsu.cls,
     u1 (flagsByte [c.lastLabel.isSome, c.pulseEnd.isSome]), (c.lastLabel.map secField).getD (absent 6)]

/-- The owner's answer to CHANNEL GET (R160). -/
def answerChannelGet (k : Port) (s : State) : State := s.respond k 0x0F (s.channelGetResponse k)

end Sys2Proof.Machine
end

