-- ==== Sys2Proof/Machine/Learning.lean ====
section
/-! DEFINITION. The Learning Unit (chapter 5): warm-up, the temperature-rate gate, bins and the drift history, the temperature table
and its lookup, the aging slope, the F1 bias, health, and the model requests. -/

namespace Sys2Proof.Machine

open Sys2Proof

/-! ## The temperature table (section 5.4) -/

/-- A table entry. -/
def Model.entry (m : Model) (i : Nat) : TableEntry := m.table.getD i ⟨0, 0⟩

/-- The entry a bin at a temperature updates: floor((T + 640) / 32), clamped to 0 to 63 (R101). -/
def tableIndex (t : Int) : Nat := (clamp 0 63 ((t + 640) / 32)).toNat

/-- A lookup's grade, with its value where it does not fail (R102 to R104). -/
structure Lookup where
  grade : Nat
  value : Option Int
  deriving DecidableEq, Repr

/-- A lookup that fails (R103). -/
def Lookup.failed : Lookup := ⟨200, none⟩

/-- The nearer of the entry found so far and a candidate entry: non-empty, and strictly nearer to `p`, so that the lower index stays
where two are equally near (R103). -/
def Model.nearer (m : Model) (p : Int) (best : Option Nat) (k : Nat) : Option Nat :=
  if (m.entry k).w = 0 then best
  else match best with
    | none => some k
    | some b => if ((32 * k : Int) - p).natAbs < ((32 * b : Int) - p).natAbs then some k else some b

/-- The search of the entries from i − 4 to i + 4, limited to 0 to 63 (R103). -/
def Model.search (m : Model) (p : Int) (i : Nat) : Lookup :=
  let candidates := (List.range 64).filter (fun k => decide (i ≤ k + 4 ∧ k ≤ i + 4))
  match candidates.foldl (m.nearer p) none with
  | some k => ⟨40, some (m.entry k).v⟩
  | none => .failed

/-- The lookup where one entry is used alone (R102, R103). -/
def Model.lookupAlone (m : Model) (p : Int) (i : Nat) : Lookup :=
  let x := m.entry i
  if x.w = 0 then m.search p i
  else ⟨if 16 ≤ x.w then 2 else 8, some x.v⟩

/-- The lookup between entries i and i + 1 (R102, R103). -/
def Model.lookupPair (m : Model) (p : Int) (i : Nat) (frac : Int) : Lookup :=
  let x := m.entry i
  let y := m.entry (i + 1)
  let between := x.v + nearest ((y.v - x.v) * frac) 32
  if x.w = 0 ∧ y.w = 0 then m.search p i
  else if x.w = 0 then ⟨40, some y.v⟩
  else if y.w = 0 then ⟨40, some x.v⟩
  else ⟨if 16 ≤ x.w ∧ 16 ≤ y.w then 2 else 8, some between⟩

/-- The lookup c(T) with its grade (R102 to R104). Every lookup fails while the TOSC alarm stands. -/
def Model.lookup (m : Model) (toscAlarm : Bool) (t : Int) : Lookup :=
  if toscAlarm then .failed
  else
    let p := t + 624
    if p < 0 then m.lookupAlone p 0
    else if 63 ≤ p / 32 then m.lookupAlone p 63
    else m.lookupPair p (p / 32).toNat (p % 32)

/-! ## Learning at a bin's close (section 5.5) -/

/-- A bin's frequency, in ppt (R105). -/
def Bin.freq (b : Bin) : Int := nearest b.mean 16

/-- The anchor taken from a bin; the entry at its temperature becomes 0 with weight 1 (R106). -/
def Model.takeAnchor (m : Model) (b : Bin) : Model :=
  { m with anchor := some ⟨b.centre, b.freq⟩, table := m.table.set (tableIndex b.temp) ⟨0, 1⟩ }

/-- A bin's residual: its frequency less the anchor's and the aging since (R107). -/
def Model.residual (m : Model) (a : Anchor) (b : Bin) : Int :=
  b.freq - (a.freq + nearest (m.slope * secDiff b.centre a.time) Config.agingDivisor)

/-- A table entry updated by a residual (R107). -/
def TableEntry.update (x : TableEntry) (r : Int) : TableEntry :=
  let v := if x.w = 0 then r else x.v + nearest (r - x.v) (min (x.w + 1) 16)
  { v := clampAbs 2000000 v, w := satSucc 255 x.w }

/-- The table updated by a bin (R107). -/
def Model.updateTable (m : Model) (a : Anchor) (b : Bin) : Model :=
  let j := tableIndex b.temp
  { m with table := m.table.set j ((m.entry j).update (m.residual a b)) }

/-- The value a fit bin gives the fit, and its centre: the bin's frequency less the lookup at its temperature; none for a bin that is
disturbed or whose lookup fails (R108). -/
def Model.fitPoint (m : Model) (toscAlarm : Bool) (b : Bin) : Option (Int × Sec) :=
  if b.disturbed then none
  else (m.lookup toscAlarm b.temp).value.map (fun c => (b.freq - c, b.centre))

/-- The fit bins, ordered by start time (R108). -/
def Model.fitPoints (m : Model) (toscAlarm : Bool) : List (Int × Sec) := m.history.filterMap (m.fitPoint toscAlarm)

/-- The sum of the values and of the times since an origin of a group of fit bins. -/
def groupSums (origin : Sec) (xs : List (Int × Sec)) : Int × Int :=
  xs.foldl (fun acc x => (acc.1 + x.1, acc.2 + secDiff x.2 origin)) (0, 0)

/-- The fitted slope from the sums of the oldest and the newest 16 fit bins (R108). Both groups number 16, so the quotient of the
differences of the sums is that of the means. A difference of times of 0 leaves the result unstated (log entry 11). -/
def fittedSlope (old new : Int × Int) : Int :=
  let num := Config.agingDivisor * (new.1 - old.1)
  let den := new.2 - old.2
  if den = 0 then Config.slopeOverNoSpan num
  else if den < 0 then nearest (-num) (-den)
  else nearest num den

/-- The slope fit over the history (R108): with 48 fit bins or more spanning 43,200 s or more, the slope moves a quarter of the way. -/
def Model.fitSlope (m : Model) (toscAlarm : Bool) : Model :=
  let xs := m.fitPoints toscAlarm
  match xs.head?, xs.getLast? with
  | some first, some last =>
    if 48 ≤ xs.length ∧ 43200 ≤ secDiff last.2 first.2 then
      let anew := fittedSlope (groupSums first.2 (xs.take 16)) (groupSums first.2 (xs.drop (xs.length - 16)))
      { m with slope := clampAbs 320000 (m.slope + nearest (anew - m.slope) 4), slopeValid := true }
    else m
  | _, _ => m

/-- A kept bin worked after its append: the anchor or the table for an undisturbed bin, then the slope fit (R105). -/
def Model.learn (m : Model) (toscAlarm : Bool) (b : Bin) : Model :=
  let taught :=
    if b.disturbed then m
    else match m.anchor with
      | none => m.takeAnchor b
      | some a => m.updateTable a b
  taught.fitSlope toscAlarm

/-- The history with the newest bins that do not precede a bin's start removed, the bin appended, and the oldest dropped at 97
(R100). -/
def appendBin (history : List Bin) (b : Bin) : List Bin :=
  let before := (history.reverse.dropWhile (fun x => decide (secDiff b.start x.finish ≤ 0))).reverse
  let all := List.append before [b]
  all.drop (all.length - 96)

/-- A kept bin appended and worked (R100, R105). -/
def Model.keep (m : Model) (toscAlarm : Bool) (b : Bin) : Model :=
  { m with history := appendBin m.history b }.learn toscAlarm b

/-! ## Bins (section 5.3) -/

/-- The fields of a bin at its close (R100). -/
def OpenBin.close (o : OpenBin) : Bin :=
  { start := o.start
    finish := o.finish
    centre := secAdd o.start (nearest (secDiff o.finish o.start) 2)
    mean := nearest o.sumI (16 * o.samples)
    temp := nearest o.sumT o.samples
    spread := (ceiling (o.maxI - o.minI) 256).toNat
    samples := o.samples
    disturbed := o.disturbed }

/-- The open bin closed: discarded below 300 samples, else kept and worked (R100). -/
def Lrn.closeBin (l : Lrn) (toscAlarm : Bool) : Lrn :=
  match l.openBin with
  | none => l
  | some o =>
    if o.samples < 300 then { l with openBin := none }
    else { l with openBin := none, model := l.model.keep toscAlarm o.close }

/-- A new bin opened by its first sample (R98). -/
def OpenBin.first (now : Sec) (i temp : Int) (disturbed : Bool) : OpenBin :=
  { start := now, finish := now, samples := 1, sumI := i, sumT := temp, maxI := i, minI := i, disturbed := disturbed }

/-- A sample added to the open bin (R98, R99). -/
def OpenBin.add (o : OpenBin) (now : Sec) (i temp : Int) (disturbed : Bool) : OpenBin :=
  { o with
    finish := now
    samples := o.samples + 1
    sumI := o.sumI + i
    sumT := o.sumT + temp
    maxI := max o.maxI i
    minI := min o.minI i
    disturbed := o.disturbed || disturbed }

/-- A learning sample taken: the bin opens or takes it, and closes full at 900 samples (R98). -/
def Lrn.sample (l : Lrn) (toscAlarm : Bool) (now : Sec) (i temp : Int) (disturbed : Bool) : Lrn :=
  let o := match l.openBin with
    | none => OpenBin.first now i temp disturbed
    | some o => o.add now i temp disturbed
  let l := { l with openBin := some o }
  if o.samples = 900 then l.closeBin toscAlarm else l

/-- The open bin, if any, marked disturbed (R99). -/
def Lrn.disturb (l : Lrn) : Lrn := { l with openBin := l.openBin.map (fun o => { o with disturbed := true }) }

/-- A sample is taken in circumstances that disturb the bin: the followed reference changed, the oven is warming, the DAC is at limit or
HELD, or the TOSC alarm stands (R99). -/
def State.disturbing (s : State) (followedChanged : Bool) : Bool :=
  followedChanged || s.lrn.warmup == .warming || s.sdc.atLimit != .clear || s.sdc.steering == .held || s.toscAlarm

/-- The learning sample of a loop update that ends in LOCKED; none without a TOSC result (R98, R150). -/
def State.learn (s : State) (followedChanged : Bool) : State :=
  match s.tosc with
  | none => s
  | some temp =>
    { s with lrn := s.lrn.sample s.toscAlarm s.tsu.seconds s.dlp.integral temp (s.disturbing followedChanged) }

/-- The F1 bias moved one sixty-fourth of the way to d (R109). -/
def Model.learnBias (m : Model) (d : Int) : Model :=
  { m with f1Bias := clampAbs 10000000 (m.f1Bias + nearest (d - m.f1Bias) 64) }

/-! ## Warm-up and the temperature-rate gate (section 5.2) -/

/-- The warm-up state moved by a valid IOVN result (R96). A change to WARMING disturbs the open bin (R99). -/
def Lrn.warm (l : Lrn) (r : SiteRecord) (iovn : Int) : Lrn :=
  match l.warmup, decide (iovn ≤ r.val .settleCurrent) with
  | .warming, true =>
    let run := satSucc 65535 l.settleRun
    if r.nat .settleTime ≤ run then { l with warmup := .settled, settleRun := 0, overRun := 0 } else { l with settleRun := run }
  | .warming, false => { l with settleRun := 0 }
  | .settled, false =>
    if 10 ≤ l.overRun + 1 then ({ l with warmup := .warming, settleRun := 0, overRun := 0 }).disturb
    else { l with overRun := l.overRun + 1 }
  | .settled, true => { l with overRun := 0 }

/-- The temperature-rate gate at a minute mark (R97). -/
def Lrn.minuteMark (l : Lrn) (limit : Int) (tosc : Option Int) (now : Sec) : Lrn :=
  let tripped := match l.minuteTemp, tosc with
    | some t0, some t => decide (limit < ((t - t0).natAbs : Int))
    | _, _ => false
  let l := if tripped then { l.disturb with rateTrips := satSucc 65535 l.rateTrips, lastTrip := some now } else l
  { l with minuteTemp := tosc }

/-! ## Health (section 5.8) -/

/-- The inputs of the HEALTH notice: verdict, warm-up state, steering state and the four alarm states (R115). -/
def State.healthKey (s : State) : Verdict × Warmup × Steering × PerAlarm AlarmState :=
  (s.lrn.verdict, s.lrn.warmup, s.sdc.steering,
   ⟨s.ssq.alarms.tosc.state, s.ssq.alarms.tbrd.state, s.ssq.alarms.vsup.state, s.ssq.alarms.vctl.state⟩)

/-- The four alarm states' encodings. -/
def State.alarmFields (s : State) : List Byte :=
  (alarmChannels.map (fun c => u1 (s.ssq.alarms.get c).state.code)).flatten

/-- The payload of a HEALTH notice: 22 bytes (R115, R197). -/
def State.healthNotice (s : State) : List Byte :=
  List.flatten
    [timeField s.now, u1 s.lrn.verdict.code, u1 s.lrn.warmup.code, u1 s.sdc.steering.code, u1 s.sdc.atLimit.code, s.alarmFields,
     u1 (flagsByte [s.lrn.model.slopeValid]), u1 s.lrn.model.wellFilled]

/-- The verdict recomputed (R114). -/
def State.recompute (s : State) : State :=
  { s with lrn := { s.lrn with verdict := deriveVerdict s.lrn s.sdc s.ssq.alarms } }

/-- The end of an event that may have changed a health attribute: the verdict is recomputed, and a HEALTH notice is placed for every port
where the verdict, the warm-up state, the steering state or an alarm state differs from before the event (R114, R115). -/
def State.reportHealth (s before : State) : State :=
  let s := s.recompute
  if s.healthKey = before.healthKey then s else s.noticeAll .health s.healthNotice

/-- Results as HEALTH GET carries them (R197). -/
def resultField (x : Option Int) : List Byte := optInt 2 x

/-- The open bin's sample count, or 0. -/
def Lrn.openSamples (l : Lrn) : Nat := (l.openBin.map (·.samples)).getD 0

/-- The response to HEALTH GET: 43 bytes (R113, R115, R197). -/
def State.healthResponse (s : State) : List Byte :=
  let l := s.lrn
  let m := l.model
  let r := s.ssq.results
  List.flatten
    [u1 0, u1 l.verdict.code, u1 l.warmup.code, uField 2 l.settleRun, uField 2 l.rateTrips,
     (l.lastTrip.map secField).getD (absent 6), u1 s.sdc.steering.code, u1 s.sdc.atLimit.code, s.alarmFields,
     resultField r.tosc, resultField r.tbrd, resultField r.vsup, resultField r.iovn,
     u1 (flagsByte [r.tosc.isSome, r.tbrd.isSome, r.vsup.isSome, r.iovn.isSome, l.lastTrip.isSome, l.openBin.isSome,
       (l.openBin.map (·.disturbed)).getD false, m.slopeValid]),
     u1 (flagsByte [m.anchor.isSome]), u1 m.history.length, u1 (m.fitPoints s.toscAlarm).length, uField 2 l.openSamples,
     u1 m.filled, u1 m.wellFilled, sField 4 m.slope, sField 4 m.f1Bias]

/-- The owner's answer to HEALTH GET (R115). -/
def answerHealthGet (k : Port) (s : State) : State := s.respond k 0x0A s.healthResponse

/-! ## Model requests (section 5.7) -/

/-- The response to HISTORY GET: 34 bytes where the bin exists (R110, R197). Index 0 is the newest bin. -/
def State.historyResponse (s : State) (index : Byte) : List Byte :=
  let m := s.lrn.model
  let n := m.history.length
  if 96 ≤ index.toNat then resultOnly .malformed
  else match m.history.reverse[index.toNat]? with
    | none => List.append (resultOnly .notFound) (u1 n)
    | some b =>
      List.flatten
        [u1 0, u1 index.toNat, u1 n, secField b.start, secField b.finish, secField b.centre, sField 4 b.mean, sField 2 b.temp,
         uField 4 b.spread, uField 2 b.samples, u1 (flagsByte [b.disturbed, (m.fitPoint s.toscAlarm b).isSome])]

/-- The owner's answer to HISTORY GET (R110). -/
def answerHistoryGet (k : Port) (index : Byte) (s : State) : State := s.respond k 0x08 (s.historyResponse index)

/-- An entry place of TABLE GET: zeros beyond the table's end (R111, R197). -/
def Model.entryPlace (m : Model) (i : Nat) : List Byte :=
  match m.table[i]? with
  | none => absent 5
  | some x => List.append (sField 4 x.v) (u1 x.w)

/-- The response to TABLE GET: 61 bytes (R111, R197). -/
def State.tableResponse (s : State) (first : Byte) : List Byte :=
  let m := s.lrn.model
  let i := first.toNat
  if 64 ≤ i then resultOnly .malformed
  else
    List.flatten
      [u1 0, u1 i, u1 (min 8 (64 - i)), ((List.range 8).map (fun j => m.entryPlace (i + j))).flatten, sField 4 m.slope,
       u1 (flagsByte [m.slopeValid, m.anchor.isSome]), (m.anchor.map (fun a => secField a.time)).getD (absent 6),
       optInt 4 (m.anchor.map (·.freq)), u1 m.filled, u1 m.wellFilled, u1 s.ssq.alarms.tosc.state.code]

/-- The owner's answer to TABLE GET (R111). -/
def answerTableGet (k : Port) (first : Byte) (s : State) : State := s.respond k 0x09 (s.tableResponse first)

/-- The result of MODEL CLEAR: FROZEN, or BUSY while the store is not IDLE, or OK (R112; log entry 15). -/
def State.clearResult (s : State) : ResultCode :=
  if s.sst.frozen then .frozen
  else match s.stc.store with
    | .idle => .ok
    | _ => .busy

/-- An open episode's record marked model-cleared (R133). -/
def markCleared : List Episode → List Episode
  | [] => []
  | e :: es => { e with modelCleared := true } :: es

/-- The HOP's part of a MODEL CLEAR: the score becomes 16; an open episode is marked (R112, R133). -/
def Hop.modelClear (h : Hop) : Hop :=
  if h.isOpen then { h with score := 16, modelCleared := true, episodes := markCleared h.episodes } else { h with score := 16 }

/-- The model cleared: history, open bin, table, slope, anchor and F1 bias; the score is 16 (R112, R133). -/
def State.clearModel (s : State) : State :=
  { s with lrn := { s.lrn with model := .cleared, openBin := none }, hop := s.hop.modelClear }

/-- The owner's answer to MODEL CLEAR: a HEALTH notice that the clear causes is placed before the response (R112, R114; log entry 19). -/
def answerModelClear (k : Port) (s : State) : State :=
  let result := s.clearResult
  let s := if result = .ok then s.clearModel.reportHealth s else s
  s.respond k 0x0B (resultOnly result)

end Sys2Proof.Machine
end

