-- ==== Sys2Proof/Machine/Holdover.lean ====
section
/-! DEFINITION. The Holdover Predictor (chapter 6): entry, the base, the predicted frequency, the uncertainty and the bound, ASSISTED,
switches, exit and the score, the episode list; and the integral arithmetic that the Discipline Loop shares (R75, R79, R129). -/

namespace Sys2Proof.Machine

open Sys2Proof

/-! ## The integral (R75, R79, R129) -/

/-- Two values have the same sign; 0 has none (R75). -/
def sameSign (x y : Int) : Bool := decide ((0 < x ∧ 0 < y) ∨ (x < 0 ∧ y < 0))

/-- An increment has the sign of the correction that the DAC clamp cut short (R75). -/
def AtLimit.cuts (a : AtLimit) (di : Int) : Bool :=
  match a with
  | .clear => false
  | .plus => decide (0 < di)
  | .minus => decide (di < 0)

/-- An increment is withheld: the trial output passes the pull range in the increment's direction, the DAC is at limit in that direction,
or the DAC is HELD. An increment of 0 is applied in every case (R75, R79, R129). -/
def withheld (pull : Int) (sdc : Sdc) (raw di : Int) : Bool :=
  di != 0 && ((decide (pull < (raw.natAbs : Int)) && sameSign di raw) || sdc.atLimit.cuts di || sdc.steering == .held)

/-- The integral after an increment that is applied or withheld, clamped to ± 256 × the pull range; `p` is the proportional term of the
trial output (R75). -/
def integrate (pull : Int) (sdc : Sdc) (i di p : Int) : Int :=
  clampAbs (256 * pull) (if withheld pull sdc (nearest (i + di) 256 + p) di then i else i + di)

/-- The output of an integral and a proportional term, clamped to ± the pull range (R75). -/
def loopOutput (pull i p : Int) : Int := clampAbs pull (nearest i 256 + p)

/-- The increment by which F1's offset moves an integral: −nearest(x × 2^(8 − m)) (R79, R129). -/
def f1Increment (m : Nat) (x : Int) : Int := -(nearest (x * 256) (2 ^ m))

/-- The pull range in force. -/
def State.pull (s : State) : Int := s.site.val .pullRange

/-! ## The predicted frequency (section 6.3) -/

/-- The lookups of now and of the base temperature, where both temperatures exist (R123). -/
def State.baseLookups (s : State) : Option (Lookup × Lookup) :=
  match s.tosc, s.hop.baseTemp with
  | some t, some tb => some (s.lrn.model.lookup s.toscAlarm t, s.lrn.model.lookup s.toscAlarm tb)
  | _, _ => none

/-- The aging term A (R122). -/
def State.agingTerm (s : State) : Int :=
  if s.lrn.model.slopeValid then
    nearest (s.lrn.model.slope * secDiff s.tsu.seconds s.hop.baseTime) Config.agingDivisor
  else 0

/-- The temperature term C: 0 where a temperature is missing or a lookup fails (R123). -/
def State.tempTerm (s : State) : Int :=
  match s.baseLookups with
  | some (x, y) => match x.value, y.value with
    | some c, some cb => c - cb
    | _, _ => 0
  | none => 0

/-- The temperature uncertainty E_temp (R126). -/
def State.tempUncertainty (s : State) : Nat :=
  match s.baseLookups, s.tosc, s.hop.baseTemp with
  | some (x, y), some t, some tb =>
    if x.value.isNone || y.value.isNone then 200
    else if (t - tb).natAbs ≤ 16 then 1
    else max x.grade y.grade
  | _, _, _ => 200

/-- The aging uncertainty E_age, in 1/16 ppt per day (R125). -/
def Model.ageUncertainty (m : Model) : Nat :=
  if m.slopeValid then (nearest m.slope.natAbs 8).toNat + 32 else 800

/-- The grade of the lookup at a temperature; without a temperature there is no lookup, and 0 is kept (R123; log entry 23). -/
def State.gradeAt (s : State) (t : Option Int) : Nat :=
  match t with
  | some t => (s.lrn.model.lookup s.toscAlarm t).grade
  | none => 0

/-- The latest terms of an update in PREDICTED, with the increment it makes (R116, R122 to R126). -/
def State.predictedTerms (s : State) (u16 : Nat) : Terms :=
  { aging := s.agingTerm, temp := s.tempTerm, gradeNow := s.gradeAt s.tosc, gradeBase := s.gradeAt s.hop.baseTemp, eTemp := s.tempUncertainty,
    eAge := s.lrn.model.ageUncertainty, u16 := u16 }

/-- The latest terms in ASSISTED: A, C, E_temp and E_age are shown as 0 (R130), and so are the lookup grades (log entry 23). -/
def assistedTerms (u16 : Nat) : Terms :=
  { aging := 0, temp := 0, gradeNow := 0, gradeBase := 0, eTemp := 0, eAge := 0, u16 := u16 }

/-- The increment of an update in PREDICTED, in 1/16 ppt (R125). -/
def State.predictedIncrement (s : State) : Nat :=
  16 * s.hop.eBase + 16 * s.tempUncertainty + (nearest (s.lrn.model.ageUncertainty * s.hop.time) 86400).toNat

/-- The predicted frequency f_hold (R124). -/
def State.holdFrequency (s : State) : Int := clampAbs s.pull (s.hop.f0 + s.agingTerm + s.tempTerm)

/-! ## ASSISTED (section 6.5) -/

/-- The ASSISTED integral after an update, with the offset d of a good F1 estimate if there is one (R129). -/
def State.assistedIntegral (s : State) (i : Int) (d : Option Int) : Int :=
  match d with
  | none => clampAbs (256 * s.pull) i
  | some d => integrate s.pull s.sdc i (f1Increment (s.site.nat .f1Bandwidth) (d - s.lrn.model.f1Bias)) 0

/-! ## The bound (section 6.4) -/

/-- U16 limited to one second of phase (R120, R127). -/
def limitUncertainty (u : Nat) : Nat := min u Config.maxUncertainty

/-- The bound of an uncertainty at a score in use (R128). -/
def boundOf (u score : Nat) : Nat := (ceiling ((u * score : Nat) : Int) 256000).toNat

/-- The bound computed at the end of a holdover update (R128). -/
def Hop.formBound (h : Hop) : Hop := { h with bound := boundOf h.uncertainty h.scoreInUse }

/-! ## Episode notices (R140) -/

/-- An entry sub-mode is ASSISTED. -/
def HoldMode.isAssisted : HoldMode → Bool
  | .predicted => false
  | .assisted => true

/-- The payload of an EPISODE notice: 29 bytes; the score before belongs to CLOSE alone (R140, R197). -/
def episodeNotice (closed : Bool) (score : Nat) (e : Episode) : List Byte :=
  List.flatten
    [u1 (onOff closed), uField 2 e.number, secField e.start,
     u1 (flagsByte [e.entryMode.isAssisted, e.e1.isSome, e.scoreAfter.isSome]), u1 e.entryCause.code, u1 (exitCode e.exitCause),
     optNat 4 e.duration, optNat 4 e.boundAtExit, optInt 6 e.e1,
     if closed then u1 e.scoreBefore else absent 1, optNat 1 e.scoreAfter, u1 score]

/-- An EPISODE notice for the newest episode, placed for every port (R140). -/
def State.noticeEpisode (s : State) (closed : Bool) : State :=
  match s.hop.episodes with
  | [] => s
  | e :: _ => s.noticeAll .episode (episodeNotice closed s.hop.score e)

/-! ## Entry (section 6.2) -/

/-- What the Discipline Loop hands over at entry (R88). -/
structure Entry where
  mode : HoldMode
  cause : EntryCause
  fromLocked : Bool
  kind : PhaseKind
  lastE : Int
  integral : Int

/-- The number after an episode's, wrapping from 65,535 to 1 (R118). -/
def nextEpisodeNumber (n : Nat) : Nat := if n < 65535 then n + 1 else 1

/-- The record of an episode at its entry (R118). -/
def State.newEpisode (s : State) (x : Entry) : Episode :=
  { number := s.hop.nextNumber, start := s.tsu.seconds, traceable := true, entryMode := x.mode, entryCause := x.cause,
    modelCleared := false, duration := none, boundAtExit := none, exitCause := none, e1 := none, scoreBefore := s.hop.score,
    scoreAfter := none }

/-- U16 at entry, from the state the engine leaves (R120). -/
def State.entryUncertainty (s : State) (x : Entry) : Nat :=
  limitUncertainty
    (if x.fromLocked then 16 * 1000 * lockedUncertainty s.site x.kind
     else 16 * (x.lastE.natAbs + 1000 * s.site.nat (.lockThreshold x.kind)))

/-- The newest bin of the history. -/
def Model.newest (m : Model) : Option Bin := m.history.getLast?

/-- A bin serves as the base: undisturbed, its end 0 to 3,600 old (R119). -/
def State.servesAsBase (s : State) (b : Bin) : Bool :=
  let age := secDiff s.tsu.seconds b.finish
  !b.disturbed && decide (0 ≤ age ∧ age ≤ 3600)

/-- The base chosen at entry in PREDICTED: the newest bin, or the loop as it stands (R119). -/
def State.chooseBase (s : State) (i : Int) : Hop :=
  let live : Hop :=
    { s.hop with baseSource := .live, f0 := nearest i 256, baseTime := s.tsu.seconds, baseTemp := s.tosc, eBase := 16 }
  match s.lrn.model.newest with
  | none => live
  | some b =>
    if s.servesAsBase b then
      { s.hop with
        baseSource := .bin
        f0 := b.freq
        baseTime := b.centre
        baseTemp := some b.temp
        eBase := max 2 (ceiling b.spread 4).toNat }
    else live

/-- The episode opened: the record, the number, the time, the scores and U16 (R118 steps 1 to 4). -/
def State.openEpisode (s : State) (x : Entry) : State :=
  { s with
    hop := { s.hop with
      isOpen := true
      episodes := (s.newEpisode x :: s.hop.episodes).take 16
      nextNumber := nextEpisodeNumber s.hop.nextNumber
      time := 0
      modelCleared := false
      scoreInUse := s.hop.score
      uncertainty := s.entryUncertainty x } }

/-- The ASSISTED integral kept through an update in PREDICTED, within the pull range in force (R116, R131, R134; log entry 31). -/
def State.keptIntegral (s : State) : Int := clampAbs (256 * s.pull) s.hop.integral

/-- The base or the integral, f_out, and the bound at entry (R118 steps 5 to 7, R121). An entry in ASSISTED leaves f0, t_b, T_b and E_base as
the episode before left them (R116; log entry 51). -/
def State.enterSteering (s : State) (x : Entry) (d : Option Int) : State × Int :=
  match x.mode with
  | .predicted =>
    let s := { s with hop := { s.chooseBase x.integral with integral := s.keptIntegral } }
    let s' := { s with hop := { s.hop with terms := s.predictedTerms 0 }.formBound }
    (s', s.holdFrequency)
  | .assisted =>
    let i := s.assistedIntegral x.integral d
    ({ s with hop := { s.hop with baseSource := .none, integral := i, terms := assistedTerms 0 }.formBound },
      loopOutput s.pull i 0)

/-- The entry to HOLDOVER: the HOP's state with its notice, and f_out (R118). `d`: the offset of a good F1 estimate of this update. -/
def State.enterHoldover (s : State) (x : Entry) (d : Option Int) : State × Int :=
  let r := (s.openEpisode x).enterSteering x d
  (r.1.noticeEpisode false, r.2)

/-! ## Later updates (R127 to R132) -/

/-- The base re-taken at a switch from ASSISTED to PREDICTED (R131). -/
def State.retakeBase (s : State) (fPrev : Int) : Hop :=
  { s.hop with
    baseSource := .live
    f0 := fPrev
    baseTime := s.tsu.seconds
    baseTemp := s.tosc
    eBase := max 2 (s.site.nat .f1Uncertainty) }

/-- The episode time advanced by the epochs raised since the previous update (R127). -/
def Hop.advance (h : Hop) : Hop := { h with time := min (h.time + h.epochs) 4294967295 }

/-- An increment added to U16, and the bound formed (R127, R128). -/
def Hop.accumulate (h : Hop) (terms : Terms) : Hop :=
  { h with uncertainty := limitUncertainty (h.uncertainty + terms.u16), terms := terms }.formBound

/-- A holdover update after the entry update: the HOP's state and f_out. `old` is the sub-mode before the update, `new` the one in force,
`fPrev` the f_out of the previous update, `d` the offset of a good F1 estimate (R127 to R132, R134). -/
def State.holdoverUpdate (s : State) (old new : HoldMode) (fPrev : Int) (d : Option Int) : State × Int :=
  let s := { s with hop := s.hop.advance }
  match new with
  | .predicted =>
    let s := match old with
      | .assisted => { s with hop := s.retakeBase fPrev }
      | .predicted => s
    ({ s with hop := { s.hop with integral := s.keptIntegral }.accumulate (s.predictedTerms s.predictedIncrement) }, s.holdFrequency)
  | .assisted =>
    let start := match old with
      | .predicted => 256 * fPrev
      | .assisted => s.hop.integral
    let i := s.assistedIntegral start d
    ({ s with hop := { s.hop with integral := i }.accumulate (assistedTerms (16 * s.site.nat .f1Uncertainty)) },
      loopOutput s.pull i 0)

/-! ## Exit (section 6.8) -/

/-- The score after an episode that closes with e1 (R136), with |e1| compared against b as 256 × |e1| against U16 × score in use. -/
def Hop.scoreAfter (h : Hop) (e1 : Int) : Nat :=
  if h.time < 600 ∨ h.modelCleared = true then h.score
  else
    let b := h.uncertainty * h.scoreInUse
    if b < 256 * e1.natAbs then min 64 (h.scoreInUse + 8)
    else if 4 * (256 * e1.natAbs) < b then max 16 (h.scoreInUse - 1)
    else h.scoreInUse

/-- The newest record closed REACQUIRED (R135). -/
def closeNewest (duration bound : Nat) (e1 : Int) (score : Nat) : List Episode → List Episode
  | [] => []
  | e :: es =>
    { e with exitCause := some .reacquired, duration := some duration, boundAtExit := some bound, e1 := some e1,
             scoreAfter := some score } :: es

/-- The episode closed at the update that leaves HOLDOVER (R135, R136). -/
def Hop.closeEpisode (h : Hop) (e1 : Int) : Hop :=
  let score := h.scoreAfter e1
  { h with score := score, episodes := closeNewest h.time h.bound e1 score h.episodes, isOpen := false }

/-- The exit from HOLDOVER with its EPISODE notice (R135). -/
def State.exitHoldover (s : State) (e1 : Int) : State := { s with hop := s.hop.closeEpisode e1 }.noticeEpisode true

/-! ## The episode list (section 6.9) -/

/-- The episode list as a save hands it over: an open record with its duration and bound so far (R137). -/
def Hop.savedEpisodes (h : Hop) : List Episode :=
  match h.isOpen, h.episodes with
  | true, e :: es => { e with duration := some h.time, boundAtExit := some h.bound } :: es
  | _, es => es

/-- A restored newest record with no exit cause is closed INTERRUPTED (R137). -/
def interrupt : List Episode → List Episode
  | [] => []
  | e :: es => { e with exitCause := some .interrupted, traceable := false } :: es

/-- The newest record has no exit cause. -/
def newestOpen : List Episode → Bool
  | [] => false
  | e :: _ => e.exitCause.isNone

/-- The episode record's 27 bytes (R198). -/
def Episode.bytes (e : Episode) : List Byte :=
  List.flatten
    [uField 2 e.number, secField e.start,
     u1 (flagsByte [e.traceable, e.modelCleared, e.entryMode.isAssisted, e.exitCause.isSome, e.e1.isSome, e.scoreAfter.isSome]),
     u1 e.entryCause.code, u1 (exitCode e.exitCause), optNat 4 e.duration, optNat 4 e.boundAtExit, optInt 6 e.e1, u1 e.scoreBefore,
     optNat 1 e.scoreAfter]

/-- The running state of an open episode: 54 bytes, the grade of T_now before that of T_b (R139, R198; log entry 46). -/
def State.runningState (s : State) : List Byte :=
  let h := s.hop
  List.flatten
    [u1 s.dlp.engine.modeCode, uField 4 h.time, uField 6 h.uncertainty, u1 h.scoreInUse, uField 4 h.bound, u1 h.baseSource.code,
     sField 4 h.f0, secField h.baseTime, (h.baseTemp.map (sField 2)).getD [0x80, 0x00], uField 4 h.eBase, sField 4 h.integral,
     sField 4 h.terms.aging, sField 4 h.terms.temp, u1 h.terms.gradeNow, u1 h.terms.gradeBase, u1 h.terms.eTemp,
     uField 2 h.terms.eAge, uField 4 h.terms.u16]

/-- The response to EPISODE GET (R139, R198). -/
def State.episodeResponse (s : State) (index sect : Byte) : List Byte :=
  let n := s.hop.episodes.length
  let notFound := List.append (resultOnly .notFound) (u1 n)
  if 16 ≤ index.toNat then resultOnly .malformed
  else match s.hop.episodes[index.toNat]? with
    | none => notFound
    | some e =>
      if sect.toNat = 0 then List.flatten [u1 0, u1 index.toNat, u1 n, e.bytes]
      else if sect.toNat = 1 then
        (if s.hop.isOpen = true ∧ index.toNat = 0 then List.append (u1 0) s.runningState else notFound)
      else resultOnly .malformed

/-- The owner's answer to EPISODE GET (R139). -/
def answerEpisodeGet (k : Port) (index sect : Byte) (s : State) : State := s.respond k 0x0C (s.episodeResponse index sect)

end Sys2Proof.Machine
end

