-- ==== Sys2Proof/Machine/Steering.lean ====
section
/-! DEFINITION. The Steering DAC and the Sensor Sequencer (chapter 7). -/

namespace Sys2Proof.Machine

open Sys2Proof

/-! ## The target code (R142) -/

/-- The unclamped target of a correction: centre ± nearest(f_out × gain / 65,536) by polarity (R142). -/
def unclampedTarget (r : SiteRecord) (f : Int) : Int :=
  let q := nearest (f * r.val .gain) 65536
  if r.val .steerPolarity = 0 then r.val .centre + q else r.val .centre - q

/-- The at-limit flag that a clamp sets: the sign of f_out (R142). -/
def limitSign (f : Int) : AtLimit := if 0 < f then .plus else if f < 0 then .minus else .clear

/-- The SDC after taking an f_out (R142). -/
def Sdc.take (d : Sdc) (r : SiteRecord) (f : Int) : Sdc :=
  let t := unclampedTarget r f
  if t < 0 then { d with target := 0, atLimit := limitSign f }
  else if (Config.maxCode : Int) < t then { d with target := Config.maxCode, atLimit := limitSign f }
  else { d with target := t.toNat, atLimit := .clear }

/-! ## Slewing (R144) -/

/-- The output code one bounded step nearer to the target (R144). -/
def slewed (output target step : Nat) : Nat :=
  if output < target then min target (output + step)
  else if target < output then max target (output - step)
  else output

/-- The SDC after a slew tick (R144). -/
def Sdc.tick (d : Sdc) (step : Nat) : Sdc :=
  match d.steering with
  | .held => { d with moved := false }
  | .normal =>
    let o := slewed d.output d.target step
    { d with output := o, moved := o != d.output }

/-- SLEW_TICK number `k`, at the phase k × floor(L / 16) (R144). -/
def execSlewTick (k : Fin 16) (s : State) : Host.Outcome State Fault Refusal :=
  whileRunning s (fun s =>
    let s := s.advanceTo (k.val * (s.tsu.interval / 16))
    { s with sdc := s.sdc.tick (s.site.nat .slewStep) })

/-! ## Readback (R145 to R147) -/

/-- VCTL_SAMPLE (R145): the output code and the moved flag latched, in a sequence in progress. -/
def execVctlSample (s : State) : Host.Outcome State Fault Refusal :=
  whileRunning s (fun s =>
    if s.ssq.inProgress then
      { s with sdc := { s.sdc with latchedCode := s.sdc.output, latchedMoved := s.sdc.moved } }
    else s)

/-- The comparison of the readback with the expected code (R145). -/
def Sdc.compare (d : Sdc) (tolerance : Int) (vctl : Option Int) : Readback :=
  match vctl with
  | none => ⟨d.latchedCode, none, none, .skipped⟩
  | some v =>
    let diff := v - d.latchedCode
    ⟨d.latchedCode, some v, some diff,
      if d.latchedMoved then .skipped else if tolerance < (diff.natAbs : Int) then .disagree else .agree⟩

/-- The runs and the steering state moved by an outcome: HELD at the fault count, NORMAL again at 8 agreements (R145 to R147). -/
def Sdc.judgeReadback (d : Sdc) (faultCount : Nat) (o : ReadbackOutcome) : Sdc :=
  match d.steering, o with
  | _, .skipped => d
  | .normal, .disagree =>
    if faultCount ≤ d.faultRun + 1 then { d with steering := .held, faultRun := 0, agreeRun := 0 }
    else { d with faultRun := d.faultRun + 1 }
  | .normal, .agree => { d with faultRun := 0 }
  | .held, .agree =>
    if 8 ≤ d.agreeRun + 1 then { d with steering := .normal, faultRun := 0, agreeRun := 0 }
    else { d with agreeRun := d.agreeRun + 1 }
  | .held, .disagree => { d with agreeRun := 0 }

/-- The SDC after a sequence's VCTL result (R145 to R147). -/
def Sdc.readbackStep (d : Sdc) (r : SiteRecord) (vctl : Option Int) : Sdc :=
  let b := d.compare (r.val .readbackTolerance) vctl
  ({ d with readback := some b }).judgeReadback (r.nat .readbackFaultCount) b.outcome

/-! ## Results (R148, R149) -/

/-- The corrected count of a channel, if its result is valid: the offset is valid and the raw count is not 4,095 (R148). -/
def correctedCount (ofs raw : Raw12) : Option Nat :=
  if 64 < ofs.toNat ∨ raw.toNat = 4095 then none else some (raw.toNat - ofs.toNat)

/-- The results of a sequence (R148, R149). -/
def resultsOf (x : RawCounts) : Results :=
  { offsetValid := decide (x.ofs.toNat ≤ 64)
    tosc := (correctedCount x.ofs x.tosc).map (fun (n : Nat) => (n : Int) - 1024)
    tbrd := (correctedCount x.ofs x.tbrd).map (fun (n : Nat) => (n : Int) - 1024)
    vsup := (correctedCount x.ofs x.vsup).map (fun (n : Nat) => 4 * (n : Int))
    iovn := (correctedCount x.ofs x.iovn).map (fun (n : Nat) => (n : Int))
    vctl := (correctedCount x.ofs x.vctl).map (fun (n : Nat) => 256 * (n : Int)) }

/-! ## Alarms (section 7.6) -/

/-- The limits of an alarmed channel (R151). -/
structure Limits where
  low : Int
  high : Int
  hysteresis : Int
  count : Nat

/-- The limits of a channel in force (R151). -/
def SiteLimits (r : SiteRecord) (c : AlarmChannel) : Limits :=
  { low := r.val (.lowLimit c), high := r.val (.highLimit c), hysteresis := r.val (.hysteresis c), count := r.nat (.alarmCount c) }

/-- The class of a result (R151). -/
inductive ResultClass | below | above | inside
  deriving DecidableEq, Repr

/-- A result classed against the limits (R151). -/
def Limits.classOf (l : Limits) (r : Int) : ResultClass :=
  if r < l.low then .below else if l.high < r then .above else .inside

/-- The alarm state of a side. -/
def Side.state : Side → AlarmState
  | .low => .low
  | .high => .high

/-- A result counted toward a side's entry run; at N, or above it, the state becomes that side's (R152). -/
def Alarm.enter (a : Alarm) (n : Nat) (side : Side) : Alarm :=
  let run := if a.side = side ∧ 0 < a.entryRun then satSucc 8 a.entryRun else 1
  if n ≤ run then { state := side.state, entryRun := 0, side := side, exitRun := 0 }
  else { a with entryRun := run, side := side }

/-- A result in the exit band counted toward IN RANGE (R153). -/
def Alarm.leave (a : Alarm) (n : Nat) : Alarm :=
  let run := satSucc 8 a.exitRun
  if n ≤ run then { a with state := .inRange, entryRun := 0, exitRun := 0 }
  else { a with entryRun := 0, exitRun := run }

/-- A valid result counted (R152, R153). -/
def Alarm.take (a : Alarm) (l : Limits) (r : Int) : Alarm :=
  match a.state, l.classOf r with
  | .inRange, .below => a.enter l.count .low
  | .inRange, .above => a.enter l.count .high
  | .inRange, .inside => { a with entryRun := 0 }
  | .low, .above => ({ a with exitRun := 0 }).enter l.count .high
  | .high, .below => ({ a with exitRun := 0 }).enter l.count .low
  | .low, _ =>
    if l.low + l.hysteresis ≤ r ∧ r ≤ l.high then a.leave l.count else { a with exitRun := 0, entryRun := 0 }
  | .high, _ =>
    if l.low ≤ r ∧ r ≤ l.high - l.hysteresis then a.leave l.count else { a with exitRun := 0, entryRun := 0 }

/-- An alarmed channel after a sequence: a result that is not valid leaves it (R151). -/
def Alarm.step (a : Alarm) (l : Limits) (r : Option Int) : Alarm :=
  match r with
  | none => a
  | some v => a.take l v

/-- The four alarms after a sequence (R150 to R153). -/
def alarmsStep (site : SiteRecord) (x : PerAlarm Alarm) (r : Results) : PerAlarm Alarm :=
  { tosc := x.tosc.step (SiteLimits site .tosc) r.tosc
    tbrd := x.tbrd.step (SiteLimits site .tbrd) r.tbrd
    vsup := x.vsup.step (SiteLimits site .vsup) r.vsup
    vctl := x.vctl.step (SiteLimits site .vctl) r.vctl }

/-! ## Sequences -/

/-- SENSOR_SEQUENCE_START (R148). -/
def execSensorSequenceStart (s : State) : Host.Outcome State Fault Refusal :=
  whileRunning s (fun s => { s with ssq := { s.ssq with inProgress := true } })

/-- The SSQ after a completed sequence (R148, R150). -/
def Ssq.complete (x : Ssq) (site : SiteRecord) (raw : RawCounts) : Ssq :=
  { inProgress := false, count := (x.count + 1) % 4294967296, raw := raw, results := resultsOf raw,
    alarms := alarmsStep site x.alarms (resultsOf raw) }

/-- The open bin is disturbed by an entry to HELD or of the TOSC alarm to LOW or HIGH since `before` (R99). -/
def State.disturbedSince (s before : State) : Bool :=
  (s.sdc.steering == .held && before.sdc.steering == .normal) ||
  (s.toscAlarm && s.ssq.alarms.tosc.state != before.ssq.alarms.tosc.state)

/-- The warm-up state after a sequence (R96). -/
def State.warmStep (s : State) : State :=
  match s.ssq.results.iovn with
  | none => s
  | some i => { s with lrn := s.lrn.warm s.site i }

/-- The end of a sensor sequence: results, readback, warm-up, alarms, and the health report (R150). -/
def State.completeSequence (s : State) (raw : RawCounts) : State :=
  let ssq := s.ssq.complete s.site raw
  let s' := { s with ssq := ssq, sdc := s.sdc.readbackStep s.site ssq.results.vctl }
  let s' := if s'.disturbedSince s then { s' with lrn := s'.lrn.disturb } else s'
  s'.warmStep.reportHealth s

/-- SEQUENCE_COMPLETE (R150), at phase `t`, of the sequence in progress. -/
def execSequenceComplete (t : Nat) (raw : RawCounts) (s : State) : Host.Outcome State Fault Refusal :=
  whileRunning s (fun s =>
    let s := s.advanceTo t
    if s.ssq.inProgress then s.completeSequence raw else s)

/-! ## SENSOR GET (R156) -/

/-- The two bytes of an alarm in SENSOR GET (R197). -/
def Alarm.bytes (a : Alarm) : List Byte :=
  List.append (u1 (a.state.code + 4 * onOff (a.side == .high))) (u1 (16 * a.entryRun + a.exitRun))

/-- A raw count: two bytes (R197). -/
def rawField (x : Raw12) : List Byte := uField 2 x.toNat

/-- The response to SENSOR GET: 56 bytes (R156, R197). -/
def State.sensorResponse (s : State) : List Byte :=
  let x := s.ssq
  let d := s.sdc
  List.flatten
    [u1 0, uField 4 x.count, timeField s.now, rawField x.raw.ofs, rawField x.raw.tosc, rawField x.raw.tbrd, rawField x.raw.vsup,
     rawField x.raw.iovn, rawField x.raw.vctl,
     u1 (flagsByte [x.results.offsetValid, x.results.tosc.isSome, x.results.tbrd.isSome, x.results.vsup.isSome,
       x.results.iovn.isSome, x.results.vctl.isSome, s.lrn.warmup == .settled]),
     uField 2 s.lrn.settleRun, x.alarms.tosc.bytes, x.alarms.tbrd.bytes, x.alarms.vsup.bytes, x.alarms.vctl.bytes,
     uField 3 d.target, uField 3 d.output, u1 d.atLimit.code, u1 d.steering.code, u1 (16 * d.faultRun + d.agreeRun),
     optNat 3 (d.readback.map (·.expected)), optInt 3 (d.readback.bind (·.diff)), u1 (readbackCode d.readback)]

/-- The owner's answer to SENSOR GET (R156). -/
def answerSensorGet (k : Port) (s : State) : State := s.respond k 0x0D s.sensorResponse

end Sys2Proof.Machine
end

