-- ==== Sys2Proof/Machine/TimeScale.lean ====
section
/-! DEFINITION. The Time Scale Unit (chapter 1): steps, epochs with the timers they count, and the derivation of class and bound. -/

namespace Sys2Proof.Machine

open Sys2Proof

/-! ## Steps (section 1.3) -/

/-- A step request (R7): its kind, its whole-second part S and its picosecond part p. -/
structure StepRequest where
  alignment : Bool
  whole : Int
  ps : Int
  deriving DecidableEq, Repr

/-- The whole seconds w of a picosecond part (R7). -/
def splitSeconds (p : Int) : Int := ceiling (p - Config.halfSecond) Config.second

/-- The remainder r of a picosecond part (R7). -/
def splitRemainder (p : Int) : Int := p - splitSeconds p * Config.second

/-- The picosecond part that a step makes with the remainder still pending (R9). -/
def Tsu.combined (x : Tsu) (q : StepRequest) : Int := x.remainder.getD 0 + q.ps

/-- The whole seconds S + w that a step adds to the count (R7, R9). -/
def Tsu.wholeSeconds (x : Tsu) (q : StepRequest) : Int := q.whole + splitSeconds (x.combined q)

/-- The TSU after a step: whole seconds at once, the remainder pending, the phase and the interval unchanged; an ALIGNMENT step makes the
time scale traceable (R7, R9, R10). -/
def Tsu.takeStep (x : Tsu) (q : StepRequest) : Tsu :=
  let r := splitRemainder (x.combined q)
  { x with
    seconds := secAdd x.seconds (x.wholeSeconds q)
    remainder := if r = 0 then none else some r
    traceable := x.traceable || q.alignment }

/-! ## Epochs (section 1.2) -/

/-- The TSU after an epoch (R3, R8). -/
def Tsu.epoch (x : Tsu) : Tsu :=
  { x with seconds := x.seconds + 1, phase := 0, interval := x.nextInterval, remainder := none, prevLabel := x.seconds + 1 }

/-- An epoch raises the minute mark where floor(label / 60) changes from the preceding epoch's (R5). -/
def minuteMarkDue (label prevLabel : Sec) : Bool := label.toNat / 60 != prevLabel.toNat / 60

/-- A record's hold-off counted down while it is FAULTED (R5, R51). -/
def RefRecord.epoch (y : RefRecord) : RefRecord := if y.state = .faulted then { y with holdOff := y.holdOff - 1 } else y

/-- A running stale timer counted down (R5, R33). -/
def Window.epoch (w : Window) : Window := { w with timer := w.timer.map (fun n => n - 1) }

/-- Settling counted down (R84). -/
def Dlp.epoch (d : Dlp) : Dlp := { d with settling := d.settling.map (fun n => n - 1) }

/-- The instant an attention pulse ends, reckoned from the epoch that opens the new interval (R179; log entry 25). -/
def TenantPort.epoch (p : TenantPort) (length : Nat) : TenantPort := { p with pulseEnd := p.pulseEnd.map (fun e => e - length) }

/-- The autosave count after an epoch: it counts epochs in LOCKED (R191). -/
def Stc.epoch (x : Stc) (e : Engine) : Stc :=
  if e.isLocked then { x with autosaveCount := satSucc 86400 x.autosaveCount } else x

/-- The timers, counts and instants of every block moved by an epoch that closes an interval of length `length` (R5). A count that reaches
0 acts at its own event (log entry 6). -/
def State.countEpoch (s : State) (length : Nat) : State :=
  { s with
    rfe := { s.rfe with f1 := s.rfe.f1.epoch length, windows := s.rfe.windows.map Window.epoch }
    rqu := { s.rqu with records :=
      { pulses := ⟨s.rqu.records.pulses.p1.epoch, s.rqu.records.pulses.p2.epoch⟩
        f1 := s.rqu.records.f1.epoch
        packets := s.rqu.records.packets.map RefRecord.epoch } }
    dlp := s.dlp.epoch
    hop := { s.hop with epochs := s.hop.epochs + 1 }
    oc := s.oc.map (fun c => c.epoch length)
    tp := s.tp.map (fun p => p.epoch length)
    stc := s.stc.epoch s.dlp.engine }

/-- The minute mark's work at an epoch whose preceding epoch's label was `prevLabel` (R5, R97). -/
def State.minuteMark (s : State) (prevLabel : Sec) : State :=
  if minuteMarkDue s.tsu.seconds prevLabel then
    { s with lrn := s.lrn.minuteMark (s.site.val .tempRateLimit) s.tosc s.tsu.seconds }
  else s

/-- The whole epoch (R3, R5). -/
def State.raiseEpoch (s : State) : State :=
  (({ s.countEpoch s.tsu.interval with tsu := s.tsu.epoch }).minuteMark s.tsu.prevLabel).timeMarks

/-- EPOCH (R3). -/
def execEpoch (s : State) : Host.Outcome State Fault Refusal := whileRunning s State.raiseEpoch

/-- SETTLING_EXPIRY (R84): settling whose count has reached 0 clears. An expiry that is not due changes nothing (log entry 5). -/
def execSettlingExpiry (s : State) : Host.Outcome State Fault Refusal :=
  whileRunning s (fun s => if s.dlp.settling = some 0 then { s with dlp := { s.dlp with settling := none } } else s)

/-! ## Class and bound (sections 1.5 and 1.6) -/

/-- The class and B derived at the end of a loop update (R11, R13, R14). -/
def State.derive (s : State) : State :=
  let b := deriveBound s.site s.dlp s.hop.bound
  { s with tsu := { s.tsu with cls := deriveClass s.site s.dlp.engine b, bound := b } }

/-- The payload of a STATE CHANGE notice: 8 bytes (R12, R197). -/
def State.stateChange (s : State) : List Byte :=
  List.flatten
    [u1 s.dlp.engine.code, u1 s.dlp.engine.modeCode, u1 s.tsu.cls, u1 (flagsByte [s.tsu.traceable]), uField 4 s.tsu.bound]

/-- What a STATE CHANGE notice announces: engine state, sub-mode, class and traceable flag (R12, R71). -/
def State.changeKey (s : State) : Nat × Nat × Nat × Bool :=
  (s.dlp.engine.code, s.dlp.engine.modeCode, s.tsu.cls, s.tsu.traceable)

/-- One STATE CHANGE notice for every port where what it announces differs from before the update (R12, R71, R92). -/
def State.announce (s before : State) : State :=
  if s.changeKey = before.changeKey then s else s.noticeAll .stateChange s.stateChange

end Sys2Proof.Machine
end

