-- ==== Sys2Proof/Machine/Loop.lean ====
section
/-! DEFINITION. The Discipline Loop (chapter 4) and the loop update, with everything that it sets off. -/

namespace Sys2Proof.Machine

open Sys2Proof

/-! ## What an update reads (R71, R72) -/

/-- The values a loop update works on, read when it is taken (R71 step 1). `f1`: F1 is available; `offset`: the d of the F1 gate that
closed at this update, if it gave an estimate (R28). -/
structure LoopInput where
  selected : Option PhaseRef
  estimate : Option PhaseEstimate
  f1 : Bool
  offset : Option Int

/-- The estimate of a reference that an update may use: delivered since the previous update, judged good, with settling clear (R72). -/
def State.usable (s : State) (r : PhaseRef) : Option PhaseEstimate :=
  match (s.record (.phase r)).held with
  | none => none
  | some h => if h.fresh && h.good && s.dlp.settling.isNone then some h.estimate else none

/-- The values read (R71 step 1). -/
def State.readLoop (s : State) (d : Option Int) : LoopInput :=
  { selected := s.rqu.selected, estimate := s.rqu.selected.bind s.usable, f1 := s.f1Available, offset := d }

/-- The offset that steers, where F1 is available (R79, R129). -/
def LoopInput.steering (x : LoopInput) : Option Int := if x.f1 then x.offset else none

/-- An estimate held is used at this update or never (R72). -/
def RefRecord.spend (y : RefRecord) : RefRecord := { y with held := y.held.map (fun h => { h with fresh := false }) }

/-- Every held estimate spent (R72). -/
def State.spendEstimates (s : State) : State := phaseRefs.foldl (fun s r => s.onRecord (.phase r) RefRecord.spend) s

/-! ## Loop arithmetic (section 4.3) -/

/-- The exponent n′: the site's in LOCKED, max(3, n − 2) in ACQUIRING (R73). -/
def State.exponent (s : State) (k : PhaseKind) (locked : Bool) : Nat :=
  let n := s.site.nat (.bandwidth k)
  if locked then n else max 3 (n - 2)

/-- The interval Δ of the arithmetic: 1 for a pulse reference, the count before the update plus 1 for a packet reference, 1 to 64 (R72). -/
def Dlp.interval (d : Dlp) (k : PhaseKind) : Nat :=
  match k with
  | .pulse => 1
  | .packet => max 1 (min 64 (d.sinceEstimate + 1))

/-- The slew limit in force (R74). -/
def State.slewLimit (s : State) : Int := s.site.val .slewLimit

/-- The terms of an update that uses an estimate with exponent `n` and interval `delta` (R74, R75). -/
def State.useEstimate (s : State) (d : Dlp) (n delta : Nat) (x : PhaseEstimate) : Dlp :=
  let p := clampAbs s.slewLimit (nearest x.e (2 ^ (n - 1)))
  let i := integrate s.pull s.sdc d.integral (nearest (x.e * delta * 256) (2 ^ (2 * n))) p
  { d with integral := i, prop := p, fOut := loopOutput s.pull i p, lastE := x.e, coarse := x.coarse }

/-- The terms held at an update that uses no estimate (R76). -/
def State.holdTerms (s : State) (d : Dlp) : Dlp :=
  let p := clampAbs s.slewLimit d.prop
  let i := clampAbs (256 * s.pull) d.integral
  { d with integral := i, prop := p, fOut := loopOutput s.pull i p }

/-- The terms where e is taken as 0, with the coarse mark of the estimate (R74, R75, R80, R83; log entries 21 and 31). -/
def State.takeZero (s : State) (d : Dlp) (coarse : Bool) : Dlp :=
  let i := clampAbs (256 * s.pull) d.integral
  { d with integral := i, prop := 0, fOut := loopOutput s.pull i 0, lastE := 0, coarse := coarse, lockRun := 0, unlockRun := 0 }

/-- The lock threshold of a kind, in ps (section 4.7). -/
def State.lockThreshold (s : State) (k : PhaseKind) : Nat := 1000 * s.site.nat (.lockThreshold k)

/-! ## FREERUN (section 4.4) -/

/-- The sub-mode of FREERUN (R77). -/
def State.freeMode (s : State) (f1 : Bool) : FreeMode :=
  if f1 then .frequency else if s.lrn.model.history.isEmpty then .unsteered else .model

/-- The temperature term of MODEL: 0 where no TOSC result is valid or a lookup fails (R78). -/
def State.modelTemp (s : State) (b : Bin) : Int :=
  match s.tosc with
  | none => 0
  | some t =>
    match (s.lrn.model.lookup s.toscAlarm t).value, (s.lrn.model.lookup s.toscAlarm b.temp).value with
    | some c, some cb => c - cb
    | _, _ => 0

/-- The frequency that the restored model gives (R78). -/
def State.modelFrequency (s : State) : Int :=
  match s.lrn.model.newest with
  | none => 0
  | some b => clampAbs s.pull (b.freq + s.modelTemp b)

/-- The integral after an update in FREQUENCY (R79). -/
def State.frequencyIntegral (s : State) (i : Int) (offset : Option Int) : Int :=
  match offset with
  | none => clampAbs (256 * s.pull) i
  | some d => integrate s.pull s.sdc i (f1Increment (s.site.nat .f1Bandwidth) d) 0

/-- The record after an update that runs a sub-mode of FREERUN (R77 to R79). -/
def State.runFree (s : State) (x : LoopInput) : Dlp :=
  let m := s.freeMode x.f1
  let d := { s.dlp with engine := .freerun m, prop := 0 }
  match m with
  | .unsteered => { d with integral := 0, fOut := 0 }
  | .model => { d with integral := 256 * s.modelFrequency, fOut := s.modelFrequency }
  | .frequency =>
    let i := s.frequencyIntegral d.integral x.steering
    { d with integral := i, fOut := loopOutput s.pull i 0 }

/-! ## Steps of the loop (sections 4.5 and 4.6) -/

/-- The alignment step that an estimate gives (R80 to R82). -/
def alignmentStep (x : PhaseEstimate) : StepRequest := ⟨true, secDiff x.toSec x.fromSec, x.e⟩

/-- The settling that a step leaves: 2 epochs where a remainder is pending, else 1 (R84). -/
def Tsu.settling (x : Tsu) : Nat := if x.remainder.isSome then 2 else 1

/-- A step issued: the TSU takes it, and settling is set (R7, R84). -/
def State.issue (s : State) (q : StepRequest) : State :=
  let tsu := s.tsu.takeStep q
  { s with tsu := tsu, dlp := { s.dlp with settling := some tsu.settling } }

/-- What an update's decision leaves: the part, and the whole seconds of a step taken, 0 without one (R169). -/
structure Decision where
  st : State
  whole : Int

/-- A decision without a step: the DLP's record replaced. -/
def State.decided (s : State) (d : Dlp) : Decision := ⟨{ s with dlp := d }, 0⟩

/-- A decision with a step, and the DLP's record beside its settling. -/
def State.stepped (s : State) (d : Dlp) (q : StepRequest) : Decision :=
  ⟨{ s with dlp := d }.issue q, s.tsu.wholeSeconds q⟩

/-- The alignment: FREERUN is left for ACQUIRING (R80). -/
def State.align (s : State) (r : PhaseRef) (x : PhaseEstimate) : Decision :=
  let d := s.takeZero { s.dlp with integral := 256 * s.dlp.fOut } x.coarse
  s.stepped { d with engine := .acquiring r, firstEstimate := false, sinceEstimate := 0 } (alignmentStep x)

/-- A first estimate is stepped: the first-estimate flag is set, |e| exceeds the step limit and steps are permitted (R83). -/
def State.steps (s : State) (d : Dlp) (x : PhaseEstimate) : Bool :=
  d.firstEstimate && s.site.flag .stepPermitted && decide (s.site.val .stepLimit < (x.e.natAbs : Int))

/-- An ORDINARY step for an estimate of the followed reference (R83). -/
def State.ordinaryStep (s : State) (d : Dlp) (r : PhaseRef) (x : PhaseEstimate) : Decision :=
  s.stepped { s.takeZero d x.coarse with engine := .acquiring r, firstEstimate := false, sinceEstimate := 0 } ⟨false, 0, x.e⟩

/-! ## Lock and unlock (section 4.7) -/

/-- An estimate used in the arithmetic: the first-estimate flag and the count since an estimate clear (R72, R83). -/
def State.arith (s : State) (d : Dlp) (k : PhaseKind) (locked : Bool) (delta : Nat) (x : PhaseEstimate) : Dlp :=
  { s.useEstimate d (s.exponent k locked) delta x with firstEstimate := false, sinceEstimate := 0 }

/-- An estimate used in ACQUIRING, tested toward lock (R85). -/
def State.acquire (s : State) (d : Dlp) (r : PhaseRef) (x : PhaseEstimate) : Dlp :=
  let run := if x.e.natAbs ≤ s.lockThreshold r.kind then satSucc 65535 d.lockRun else 0
  let delta := d.interval r.kind
  if s.site.nat (.lockCount r.kind) ≤ run then
    s.arith { d with engine := .locked r, lockRun := 0, unlockRun := 0 } r.kind true delta x
  else s.arith { d with engine := .acquiring r, lockRun := run } r.kind false delta x

/-- An estimate used in LOCKED, tested toward unlock (R86). The estimate that completes the run makes its increment of I by R75 (log entry 52). -/
def State.track (s : State) (d : Dlp) (r : PhaseRef) (x : PhaseEstimate) : Dlp :=
  let run := if 4 * s.lockThreshold r.kind < x.e.natAbs then d.unlockRun + 1 else 0
  let delta := d.interval r.kind
  if 4 ≤ run then s.arith { d with engine := .acquiring r, lockRun := 0, unlockRun := 0 } r.kind false delta x
  else s.arith { d with engine := .locked r, unlockRun := run } r.kind true delta x

/-- The first estimate of a newly selected reference, not stepped (R87; log entry 32). I passes to the new reference as it stands, and the
estimate then makes its increment of I by R75 (log entry 52). -/
def State.switchTo (s : State) (d : Dlp) (r : PhaseRef) (x : PhaseEstimate) : Dlp :=
  let delta := d.interval r.kind
  let near := decide (x.e.natAbs ≤ s.lockThreshold r.kind)
  if near && d.engine.isLocked then s.arith { d with engine := .locked r, unlockRun := 0 } r.kind true delta x
  else s.arith { d with engine := .acquiring r, lockRun := if near then 1 else 0, unlockRun := 0 } r.kind false delta x

/-- An update in ACQUIRING or LOCKED that uses an estimate of the selected reference (R83, R85 to R87; log entry 20). -/
def State.follow (s : State) (followed r : PhaseRef) (x : PhaseEstimate) : Decision :=
  let d := { s.dlp with firstEstimate := s.dlp.firstEstimate || decide (r ≠ followed) }
  if s.steps d x then s.ordinaryStep d r x
  else if r ≠ followed then s.decided (s.switchTo d r x)
  else if d.engine.isLocked then s.decided (s.track d r x)
  else s.decided (s.acquire d r x)

/-- The count of updates since an estimate, raised (R72). -/
def Dlp.count (d : Dlp) : Dlp := { d with sinceEstimate := satSucc 64 d.sinceEstimate }

/-! ## Holdover (section 4.8) -/

/-- The sub-mode that F1's availability gives (R88, R90). -/
def holdModeOf (f1 : Bool) : HoldMode := if f1 then .assisted else .predicted

/-- A reference's newest trail entry is FAULTED with the cause DISAGREE. -/
def RefRecord.outvoted (y : RefRecord) : Bool :=
  match y.trail with
  | [] => false
  | t :: _ => t.state == .faulted && t.cause == .disagree

/-- The entry cause (R89). -/
def State.entryCause (s : State) (followed : PhaseRef) : EntryCause :=
  if s.rqu.selectionCause = some .inhibited then .inhibited
  else if (s.record (.phase followed)).outvoted = true ∨
      phaseRefs.any (fun r => (s.record (.phase r)).state == .qualified && (s.record (.phase r)).partner.isSome) = true then .dispute
  else if phaseRefs.all (fun r => (s.record (.phase r)).state == .inhibited || (s.record (.phase r)).state == .faulted) then .allFaulted
  else .referenceLost

/-- The open bin closed where the engine has left LOCKED (R95, R100). -/
def State.closeOpenBin (s : State) : State := { s with lrn := s.lrn.closeBin s.toscAlarm }

/-- The integral within ±256 × the pull range in force: every update clamps it (R76, R93). -/
def State.integralInRange (s : State) : Int := clampAbs (256 * s.pull) s.dlp.integral

/-- What the DLP hands the Predictor at entry, the integral as this update clamps it (R88, R93; log entry 31). -/
def State.entryOf (s : State) (followed : PhaseRef) (x : LoopInput) : Entry :=
  { mode := holdModeOf x.f1, cause := s.entryCause followed, fromLocked := s.dlp.engine.isLocked, kind := followed.kind,
    lastE := s.dlp.lastE, integral := s.integralInRange }

/-- HOLDOVER is entered: the open bin closes, the Predictor opens an episode and gives f_out (R88, R95), and the DLP's integral is clamped
(R93). -/
def State.loseReference (s : State) (followed : PhaseRef) (x : LoopInput) : Decision :=
  let entry := s.entryOf followed x
  let r := s.closeOpenBin.enterHoldover entry x.steering
  r.1.decided { r.1.dlp.count with
    engine := .holdover entry.mode, integral := entry.integral, prop := 0, fOut := r.2, lockRun := 0, unlockRun := 0, settling := none,
    firstEstimate := false }

/-- An update in HOLDOVER that does not leave it; the DLP's integral stays, clamped (R90, R93). -/
def State.runHoldover (s : State) (m : HoldMode) (x : LoopInput) : Decision :=
  let m' := holdModeOf x.f1
  let r := s.holdoverUpdate m m' s.dlp.fOut x.steering
  r.1.decided { r.1.dlp.count with
    engine := .holdover m', integral := s.integralInRange, prop := 0, fOut := r.2, lockRun := 0, unlockRun := 0 }

/-- The estimate e1 used in the arithmetic at the exit from HOLDOVER, and tested toward lock: the engine stays ACQUIRING (R91). -/
def State.reacquire (s : State) (d : Dlp) (r : PhaseRef) (x : PhaseEstimate) : Dlp :=
  let run := if x.e.natAbs ≤ s.lockThreshold r.kind then 1 else 0
  s.arith { d with engine := .acquiring r, lockRun := run } r.kind false 1 x

/-- HOLDOVER is left for ACQUIRING (R91). -/
def State.regain (s : State) (r : PhaseRef) (x : PhaseEstimate) : Decision :=
  let s := s.exitHoldover x.e
  let d := { s.dlp with
    engine := .acquiring r, integral := 256 * s.dlp.fOut, lockRun := 0, unlockRun := 0, firstEstimate := true }
  if s.steps d x then s.ordinaryStep d r x else s.decided (s.reacquire d r x)

/-! ## The decision of an update (R71 steps 2 to 4) -/

/-- An update in ACQUIRING or LOCKED (R76, R83, R85 to R88). -/
def State.decideFollowing (s : State) (followed : PhaseRef) (x : LoopInput) : Decision :=
  match x.selected, x.estimate with
  | none, _ => s.loseReference followed x
  | some r, some e => s.follow followed r e
  | some _, none => s.decided (s.holdTerms s.dlp.count)

/-- The decision by engine state (R71). -/
def State.decideUpdate (s : State) (x : LoopInput) : Decision :=
  match s.dlp.engine with
  | .freerun _ => match x.selected, x.estimate with
    | some r, some e => s.align r e
    | _, _ => s.decided (s.runFree x).count
  | .acquiring f => s.decideFollowing f x
  | .locked f => s.decideFollowing f x
  | .holdover m => match x.selected, x.estimate with
    | some r, some e => s.regain r e
    | _, _ => s.runHoldover m x

/-! ## What the update hands on (R71 steps 5 and 6, R92) -/

/-- The followed reference changed while the engine stayed LOCKED (R99). -/
def followedChanged (old new : Engine) : Bool :=
  match old, new with
  | .locked a, .locked b => a != b
  | _, _ => false

/-- The Learning Unit's part of an update: the sample and the F1 bias in LOCKED, the bin's close otherwise (R98, R100, R109). -/
def State.learnUpdate (s : State) (old : Engine) (x : LoopInput) : State :=
  if s.dlp.engine.isLocked then
    let s := s.learn (followedChanged old s.dlp.engine)
    match x.steering with
    | none => s
    | some d => { s with lrn := { s.lrn with model := s.lrn.model.learnBias d } }
  else s.closeOpenBin

/-- The Steering DAC takes f_out (R92, R142). -/
def State.steer (s : State) : State := { s with sdc := s.sdc.take s.site s.dlp.fOut }

/-- The time marks placed again where a step changed the next label, by the time-marks setting as it stands (R169; log entry 44). -/
def State.correctMarks (s : State) (whole : Int) : State := if whole = 0 then s else s.timeMarks

/-- The epochs since an update counted afresh (R127). -/
def State.restartEpochs (s : State) : State := { s with hop := { s.hop with epochs := 0 } }

/-- The end of an update: f_out to the DAC, the values to the LRN, health, class and B, STATE CHANGE, budget checks and corrected
marks (R92, R98, R114, R11, R12, R165, R169; log entry 19). -/
def Decision.handOn (r : Decision) (before : State) (x : LoopInput) : State :=
  let s := (r.st.steer.learnUpdate before.dlp.engine x).reportHealth before
  ((s.derive.announce before).budgetChecks.correctMarks r.whole).restartEpochs

/-- The DLP's part of a loop update (R71). -/
def State.loopPart (s : State) (d : Option Int) : State :=
  let x := s.readLoop d
  (s.spendEstimates.decideUpdate x).handOn s x

/-! ## The loop update (R71) -/

/-- A sample delivered, if there is one. -/
def State.deliver (s : State) (r : Ref) (x : Option Sample) : State :=
  match x with
  | none => s
  | some x => s.sample r x

/-- The samples that the close of the three gates delivers at an update (R24, R27). -/
structure GateSamples where
  p1 : Option Sample
  p2 : Option Sample
  f1 : Option Sample

/-- The samples that close the gates, as the update is taken (R24, R27, R28). -/
def State.gateSamples (s : State) : GateSamples := ⟨s.pulseLoss .p1, s.pulseLoss .p2, s.f1Sample⟩

/-- The offset d of the F1 estimate delivered at an update (R28). -/
def GateSamples.offset (g : GateSamples) : Option Int :=
  match g.f1 with
  | some (.offset d _) => some d
  | _ => none

/-- The gates closed (R24, R27). -/
def State.closeGates (s : State) : State :=
  let s' := (s.closeInterval .p1).closeInterval .p2
  { s' with rfe := { s'.rfe with f1 := s.closeGate.2 } }

/-- One part of a loop update. -/
def State.updatePart (g : GateSamples) (s : State) (p : UpdatePart) : State :=
  match p with
  | .sampleP1 => s.deliver (.phase (.pulse .p1)) g.p1
  | .sampleP2 => s.deliver (.phase (.pulse .p2)) g.p2
  | .sampleF1 => s.deliver .f1 g.f1
  | .loop => s.loopPart g.offset

/-- The four parts in an order: a part named twice is taken once, and a part not named is taken after the others (log entry 1). -/
def partOrder (order : List UpdatePart) : List UpdatePart :=
  (List.append order [.sampleP1, .sampleP2, .sampleF1, .loop]).foldl
    (fun acc p => if acc.contains p then acc else List.append acc [p]) []

/-- The loop update at the mid-interval mark, at the phase floor(L / 2) (R4, R71). -/
def State.update (s : State) (order : List UpdatePart) : State :=
  let s := s.advanceTo (s.tsu.interval / 2)
  (partOrder order).foldl (State.updatePart s.gateSamples) s.closeGates

/-- LOOP_UPDATE (R71). -/
def execLoopUpdate (order : List UpdatePart) (s : State) : Host.Outcome State Fault Refusal :=
  whileRunning s (fun s => s.update order)

end Sys2Proof.Machine
end

