-- ==== Sys2Proof/Machine/Operands.lean ====
section
/-! DEFINITION. The forms a request takes: its kind, its payload and its frame, read and written (sections 9.2 and 11.2 to 11.7). -/

namespace Sys2Proof.Machine

open Sys2Proof

/-- A request with the fields its frame carries: one form for each request kind of section 11.2. -/
inductive Request
  | poll
  | status
  | identify
  | portSet (mode polarity limit : Byte)
  | portReset
  | offsetReport (fields : OffsetFields)
  | referenceGet (index sect : Byte)
  | historyGet (index : Byte)
  | tableGet (first : Byte)
  | healthGet
  | modelClear
  | episodeGet (index sect : Byte)
  | sensorGet
  | channelSet (fields : ChannelFields)
  | channelGet
  | siteGet (ident inst : Byte)
  | siteSet (ident inst : Byte) (value : BitVec 48)
  | siteFreeze
  | siteSave
  | modelSave
  deriving DecidableEq, Repr

/-- The kind byte of a request (section 11.2). -/
def Request.kind : Request → Nat
  | .poll => 0x01
  | .status => 0x02
  | .identify => 0x03
  | .portSet _ _ _ => 0x04
  | .portReset => 0x05
  | .offsetReport _ => 0x06
  | .referenceGet _ _ => 0x07
  | .historyGet _ => 0x08
  | .tableGet _ => 0x09
  | .healthGet => 0x0A
  | .modelClear => 0x0B
  | .episodeGet _ _ => 0x0C
  | .sensorGet => 0x0D
  | .channelSet _ => 0x0E
  | .channelGet => 0x0F
  | .siteGet _ _ => 0x10
  | .siteSet _ _ _ => 0x11
  | .siteFreeze => 0x12
  | .siteSave => 0x13
  | .modelSave => 0x14

/-- The payload length that a kind requires; none where the kind names no request (section 11.2). -/
def requestLength (kind : Nat) : Option Nat :=
  if kind = 0x04 then some 3
  else if kind = 0x06 then some 24
  else if kind = 0x07 ∨ kind = 0x0C ∨ kind = 0x10 then some 2
  else if kind = 0x08 ∨ kind = 0x09 then some 1
  else if kind = 0x0E then some 17
  else if kind = 0x11 then some 8
  else if 0x01 ≤ kind ∧ kind ≤ 0x14 then some 0
  else none

/-- A byte of a payload. -/
def at_ (p : List Byte) (i : Nat) : Byte := p.getD i 0

/-- A field of `w` bits spelled by `n` bytes from an offset (R195). -/
def field (w off n : Nat) (p : List Byte) : BitVec w := BitVec.ofNat w (natOf (slice off n p))

/-- The payload of an OFFSET REPORT, written (section 11.4). -/
def offsetPayload (f : OffsetFields) : List Byte :=
  List.flatten
    [beBytes 2 f.sequence.toNat, beBytes 6 f.masterSec.toNat, beBytes 4 f.masterNs.toNat, beBytes 5 f.offset.toNat,
     beBytes 5 f.delay.toNat, [f.grade, f.flags]]

/-- The payload of an OFFSET REPORT, read (section 11.4). -/
def offsetFieldsOf (p : List Byte) : OffsetFields :=
  { sequence := field 16 0 2 p, masterSec := field 48 2 6 p, masterNs := field 32 8 4 p, offset := field 40 12 5 p,
    delay := field 40 17 5 p, grade := at_ p 22, flags := at_ p 23 }

/-- The payload of a CHANNEL SET, written (section 11.5). -/
def channelPayload (f : ChannelFields) : List Byte :=
  List.flatten
    [beBytes 4 f.delay.toNat, beBytes 4 f.width.toNat, beBytes 4 f.limit.toNat,
     [f.polarity, f.action, f.requireTrac, f.timeMarks, f.enabled]]

/-- The payload of a CHANNEL SET, read (section 11.5). -/
def channelFieldsOf (p : List Byte) : ChannelFields :=
  { delay := field 32 0 4 p, width := field 32 4 4 p, limit := field 32 8 4 p, polarity := at_ p 12, action := at_ p 13,
    requireTrac := at_ p 14, timeMarks := at_ p 15, enabled := at_ p 16 }

/-- The payload of a request, written (sections 11.2 to 11.6). -/
def Request.payload : Request → List Byte
  | .portSet m p l => [m, p, l]
  | .offsetReport f => offsetPayload f
  | .referenceGet i x => [i, x]
  | .historyGet i => [i]
  | .tableGet i => [i]
  | .episodeGet i x => [i, x]
  | .channelSet f => channelPayload f
  | .siteGet i n => [i, n]
  | .siteSet i n v => i :: n :: beBytes 6 v.toNat
  | _ => []

/-- The request that a kind and a payload of the right length spell. -/
def Request.read (kind : Nat) (p : List Byte) : Option Request :=
  match kind with
  | 0x01 => some .poll
  | 0x02 => some .status
  | 0x03 => some .identify
  | 0x04 => some (.portSet (at_ p 0) (at_ p 1) (at_ p 2))
  | 0x05 => some .portReset
  | 0x06 => some (.offsetReport (offsetFieldsOf p))
  | 0x07 => some (.referenceGet (at_ p 0) (at_ p 1))
  | 0x08 => some (.historyGet (at_ p 0))
  | 0x09 => some (.tableGet (at_ p 0))
  | 0x0A => some .healthGet
  | 0x0B => some .modelClear
  | 0x0C => some (.episodeGet (at_ p 0) (at_ p 1))
  | 0x0D => some .sensorGet
  | 0x0E => some (.channelSet (channelFieldsOf p))
  | 0x0F => some .channelGet
  | 0x10 => some (.siteGet (at_ p 0) (at_ p 1))
  | 0x11 => some (.siteSet (at_ p 0) (at_ p 1) (field 48 2 6 p))
  | 0x12 => some .siteFreeze
  | 0x13 => some .siteSave
  | 0x14 => some .modelSave
  | _ => none

/-- The frame that carries a request: kind, length, payload, CRC-8 (section 11.2, R196). -/
def Request.frame (q : Request) : List Byte :=
  let body := byte q.kind :: byte q.payload.length :: q.payload
  List.append body [crc8 body]

/-- What the bytes of a transaction are judged to be (R172). -/
inductive Inbound
  | bad
  | good (kind : Byte) (payload : List Byte)
  deriving DecidableEq, Repr

/-- The judgement of the whole bytes received: short, CRC, or good (R172). Bytes after the CRC byte are ignored. -/
def judgeFrame (bytes : List Byte) : Inbound :=
  match bytes with
  | kind :: len :: rest =>
    let n := len.toNat
    if 60 < n then .bad
    else if rest.length < n + 1 then .bad
    else if at_ rest n ≠ crc8 (kind :: len :: rest.take n) then .bad
    else .good kind (rest.take n)
  | _ => .bad

/-- What dispatch makes of a good frame before it looks at the part's state (R174 orders 1 and 2). -/
inductive Parsed
  | unknown
  | malformed
  | request (q : Request)
  deriving DecidableEq, Repr

/-- A good frame's kind and length examined (R174 orders 1 and 2). -/
def parse (kind : Byte) (payload : List Byte) : Parsed :=
  match requestLength kind.toNat, Request.read kind.toNat payload with
  | some n, some q => if payload.length = n then .request q else .malformed
  | _, _ => .unknown

end Sys2Proof.Machine
end

