-- ==== Sys2Proof/Machine/SiteSettings.lean ====
section
/-! DEFINITION. The site settings (sections 10.1 and 10.2): SITE GET, SITE SET with its effects on the blocks, SITE FREEZE. -/

namespace Sys2Proof.Machine

open Sys2Proof

/-! ## SITE GET (R185) -/

/-- A value of the record: six bytes, signed (section 11.2, R197). -/
def valueField (v : Int) : List Byte := sField 6 v

/-- The last save record's fields in SITE GET: zeros while none is held (R197). -/
def Stc.lastSaveFields (x : Stc) : List Byte :=
  match x.lastSave with
  | none => absent 10
  | some r =>
    List.flatten
      [u1 r.area.code, u1 r.kind.code, u1 (if r.ok then ResultCode.ok.code else ResultCode.failed.code), saveTimeField r.time]

/-- The response to SITE GET: 41 bytes (R185, R197). -/
def State.siteGetResponse (s : State) (ident inst : Byte) : List Byte :=
  match Setting.named ident.toNat inst.toNat with
  | none => resultOnly .malformed
  | some x =>
    List.flatten
      [u1 0, [ident, inst], valueField (s.site.val x), valueField x.range.1, valueField x.range.2, valueField x.factory,
       u1 (flagsByte [s.sst.frozen, s.sst.siteDefault, s.stc.lastSave.isSome]), uField 2 s.sst.changeCount, u1 s.stc.store.code,
       s.stc.lastSaveFields]

/-- The owner's answer to SITE GET (R185). -/
def answerSiteGet (k : Port) (ident inst : Byte) (s : State) : State := s.respond k 0x10 (s.siteGetResponse ident inst)

/-! ## SITE SET (R186) -/

/-- The first of the checks that applies to a SITE SET: the value named with the value applied, or the refusal (R186). -/
inductive SiteCheck
  | refused (r : ResultCode)
  | applied (x : Setting) (v : Int) (r : ResultCode)
  deriving DecidableEq, Repr

/-- The checks of R186 in their order. -/
def Sst.check (x : Sst) (ident inst : Nat) (v : Int) : SiteCheck :=
  match Setting.named ident inst with
  | none => .refused .malformed
  | some y =>
    if y.isChoice = true ∧ y.admits v = false then .refused .malformed
    else if x.frozen then .refused .frozen
    else if y.admits v then .applied y v .ok
    else .applied y (y.clamped v) .clamped

/-- What a changed value does at once in the block that owns the affected state: an inhibit (R52, R53), a priority or the revertive setting
(R65), a lowered fault limit (R50), a window threshold (R36), the F1 nominal frequency (R27, R28). A block reads every other field at
its next event. `old` is the value replaced. -/
def State.settingChanged (s : State) (x : Setting) (old : Int) : State :=
  match x with
  | .inhibit r => (if s.inhibited r then Work.inhibit ⟨s, []⟩ r else Work.release ⟨s, []⟩ r).finish .other
  | .priority _ => Work.finish ⟨s, []⟩ .priority
  | .revertive => Work.finish ⟨s, []⟩ .revertive
  | .faultLimit k => if s.site.val x < old then s.lowerFaultLimit k else s
  | .windowThreshold k => s.thresholdChanged k
  | .f1Nominal => { s with rfe := { s.rfe with f1 := { s.rfe.f1 with prevD := none } } }
  | _ => s

/-- The payload of a SETTINGS notice: 13 bytes (R186, R187, R197). -/
def State.settingsNotice (s : State) (event ident inst : Nat) (v : Int) (k : Port) : List Byte :=
  List.flatten
    [u1 event, u1 ident, u1 inst, valueField v, u1 k.number, uField 2 s.sst.changeCount, u1 (flagsByte [s.sst.frozen])]

/-- A value applied that differs from the one it replaces: the record and the count change, a SETTINGS notice goes to every port, and the
owning block acts (R186). -/
def State.changeSetting (s : State) (k : Port) (x : Setting) (v : Int) : State :=
  let old := s.site.val x
  let s := { s with sst := { s.sst with record := s.sst.record.put x v, changeCount := (s.sst.changeCount + 1) % 65536 } }
  (s.noticeAll .settings (s.settingsNotice 0 x.ident x.instanceNumber v k)).settingChanged x old

/-- A value applied (R186). -/
def State.applySetting (s : State) (k : Port) (x : Setting) (v : Int) : State :=
  if s.site.val x = v then s else s.changeSetting k x v

/-- The owner's answer to SITE SET (R186). The notices that the request causes join the requesting port's queue before the response (log entry
19). -/
def answerSiteSet (k : Port) (ident inst : Byte) (value : BitVec 48) (s : State) : State :=
  match s.sst.check ident.toNat inst.toNat value.toInt with
  | .refused r => s.respond k 0x11 (resultOnly r)
  | .applied x v r =>
    let s := s.applySetting k x v
    s.respond k 0x11 (List.flatten [u1 r.code, [ident, inst], valueField (s.site.val x)])

/-! ## SITE FREEZE (R187) -/

/-- The frozen flag set, with a SETTINGS notice where it was clear (R187). -/
def State.freeze (s : State) (k : Port) : State :=
  let s' := { s with sst := { s.sst with frozen := true } }
  if s.sst.frozen then s' else s'.noticeAll .settings (s'.settingsNotice 1 0 0 0 k)

/-- The owner's answer to SITE FREEZE (R187). Its SETTINGS notice joins the requesting port's queue before the response (log entry 19). -/
def answerSiteFreeze (k : Port) (s : State) : State := (s.freeze k).respond k 0x12 (resultOnly .ok)

end Sys2Proof.Machine
end

