-- ==== Sys2Proof/Machine/Store.lean ====
section
/-! DEFINITION. The store (sections 10.3 to 10.7 and 11.8): the two area images, saves with the memory operations they consist of, the
power-fail warning, hardware reset and start-up. -/

namespace Sys2Proof.Machine

open Sys2Proof

/-! ## Area images (section 11.8) -/

/-- An area's first address (section 10.3). -/
def Area.base : Area → Nat
  | .site => 0
  | .model => 4096

/-- The addresses of an area's sectors (section 10.3). -/
def Area.sectors : Area → List Nat
  | .site => [0]
  | .model => [4096, 8192]

/-- An area's signature (section 11.8). -/
def Area.signature : Area → List Byte
  | .site => [0xA5, 0x1E, 0x00, 0x01]
  | .model => [0xA5, 0x1E, 0x00, 0x02]

/-- The length of an area's content (section 11.8). -/
def Area.contentLength : Area → Nat
  | .site => 624
  | .model => 3761

/-- An area's image: signature, length, content, CRC-16 (sections 10.3 and 11.8). -/
def Area.image (a : Area) (content : List Byte) : List Byte :=
  let body := List.flatten [a.signature, uField 4 content.length, content]
  List.append body (beBytes 2 (crc16 body).toNat)

/-- The content of the SITE area: 78 entries of identifier, instance and value (section 11.8). -/
def siteContent (r : SiteRecord) : List Byte :=
  (Setting.all.map (fun x => List.flatten [u1 x.ident, u1 x.instanceNumber, sField 6 (r.val x)])).flatten

/-- A bin place: 31 bytes (section 11.8). -/
def Bin.bytes (b : Bin) : List Byte :=
  List.flatten
    [secField b.start, secField b.finish, secField b.centre, sField 4 b.mean, sField 2 b.temp, uField 4 b.spread, uField 2 b.samples,
     u1 (onOff b.disturbed)]

/-- A count, then the records, then zeros up to the number of places (section 11.8). -/
def placed (places size : Nat) (records : List (List Byte)) : List Byte :=
  List.flatten [u1 records.length, records.flatten, absent ((places - records.length) * size)]

/-- The content of the MODEL area: 3,761 bytes (section 11.8, R94, R137). -/
def modelContent (m : Model) (h : Hop) (marker : Bool) (t : SaveTime) : List Byte :=
  List.flatten
    [((List.range 64).map (fun i => List.append (sField 4 (m.entry i).v) (u1 (m.entry i).w))).flatten, sField 4 m.slope,
     u1 (onOff m.slopeValid), u1 (onOff m.anchor.isSome), (m.anchor.map (fun a => secField a.time)).getD (absent 6),
     optInt 4 (m.anchor.map (·.freq)), u1 h.score, sField 4 m.f1Bias, placed 96 31 (m.history.map Bin.bytes),
     uField 2 h.nextNumber, placed 16 27 (h.savedEpisodes.map Episode.bytes), u1 (onOff marker), saveTimeField t]

/-- The image a save writes, from the content of its area as it stands (R189, R137); an EMERGENCY save writes the clean-stop marker set,
every other one clear (R190 to R192). -/
def State.imageOf (s : State) (a : Area) (emergency : Bool) : List Byte :=
  match a with
  | .site => a.image (siteContent s.site)
  | .model => a.image (modelContent s.lrn.model s.hop emergency s.saveTime)

/-! ## Memory operations (R189) -/

/-- The pages of an image from an address, `n` of them at most: 256 bytes each, and in the last those of the image that remain, with no
padding (section 10.3; log entry 50). -/
def pagesFrom : Nat → Nat → List Byte → List MemOp
  | 0, _, _ => []
  | n + 1, addr, bs => if bs.isEmpty then [] else .program addr (bs.take 256) :: pagesFrom n (addr + 256) (bs.drop 256)

/-- The programs of a save: every page but the first, in ascending order, then the first (R189 phases 3 and 4). -/
def programs (addr : Nat) (image : List Byte) : List MemOp :=
  match pagesFrom 32 addr image with
  | [] => []
  | first :: rest => List.append rest [first]

/-- The areas that a closing erase is owed for, SITE before MODEL (R189). -/
def Stc.owed (x : Stc) : List Area :=
  List.append (if x.owedSite then [.site] else []) (if x.owedModel then [.model] else [])

/-- The operations of a save: owed erases, sector erases, programs (R189 phases 1 to 4). -/
def saveOps (owed : List Area) (a : Area) (image : List Byte) : List MemOp :=
  List.flatten
    [owed.map (fun x => .erase x.base), a.sectors.map .erase, programs a.base image]

/-- A command on the memory port (section 10.3). -/
inductive MemCommand
  | read (addr : Nat)
  | writeEnable
  | sectorErase (addr : Nat)
  | pageProgram (addr : Nat) (data : List Byte)
  | readStatus
  deriving DecidableEq, Repr

/-- The bytes that the memory port sends for a command: its code, then a 24-bit address, high byte first, where it takes one, then the data
of a page (section 11.8). -/
def MemCommand.bytes : MemCommand → List Byte
  | .read addr => 0x03 :: beBytes 3 addr
  | .writeEnable => [0x06]
  | .sectorErase addr => 0x20 :: beBytes 3 addr
  | .pageProgram addr data => 0x02 :: List.append (beBytes 3 addr) data
  | .readStatus => [0x05]

/-- The commands of an operation: WRITE ENABLE, the erase or program, then READ STATUS, which is repeated while the device is busy (R189). -/
def MemOp.commands : MemOp → List MemCommand
  | .erase addr => [.writeEnable, .sectorErase addr, .readStatus]
  | .program addr data => [.writeEnable, .pageProgram addr data, .readStatus]

/-- The commands of a save on a device that is never found busy: READ STATUS first, then each operation's (R189). -/
def Save.commands (v : Save) : List MemCommand := .readStatus :: (v.ops.map MemOp.commands).flatten

/-- The busy indication of the device's status byte: bit 0 (section 11.8). -/
def statusBusy (b : Byte) : Bool := b.getLsbD 0

/-- The error indication of the device's status byte: bit 5 (section 11.8). -/
def statusError (b : Byte) : Bool := b.getLsbD 5

/-- An operation erases a sector of an area. -/
def MemOp.erases (a : Area) : MemOp → Bool
  | .erase addr => a.sectors.contains addr
  | .program _ _ => false

/-- The image that an area holds after some operations of a save were begun: none where one erased a sector of it (R189). -/
def erasedBy (a : Area) (begun : List MemOp) (old : Option (List Byte)) : Option (List Byte) :=
  if begun.any (MemOp.erases a) then none else old

/-- The memory device after a save of which `done` operations were completed and `begun` were begun (R189): an area whose erase began is
left invalid, unless it is the save's own and all its operations completed. -/
def Flash.after (f : Flash) (v : Save) (done begun : Nat) : Flash :=
  let ops := v.ops.take begun
  if v.ops.length ≤ done then
    match v.area with
    | .site => { site := some v.image, model := erasedBy .model ops f.model }
    | .model => { site := erasedBy .site ops f.site, model := some v.image }
  else { site := erasedBy .site ops f.site, model := erasedBy .model ops f.model }

/-! ## Starting a save (R189 to R192) -/

/-- The kind of a save (R188). -/
def SaveOrigin.kind : SaveOrigin → SaveKind
  | .requested _ => .requested
  | .auto => .auto
  | .emergency => .emergency

/-- An origin is an emergency save. -/
def SaveOrigin.isEmergency : SaveOrigin → Bool
  | .emergency => true
  | _ => false

/-- The save that starts now: its snapshot, its save time and its operations (R189). -/
def State.newSave (s : State) (a : Area) (o : SaveOrigin) : Save :=
  let image := s.imageOf a o.isEmergency
  { area := a, origin := o, image := image, time := s.saveTime, ops := saveOps s.stc.owed a image }

/-- A save starts: the store is SAVING, and a MODEL save sets the autosave count to 0 (R189, R191). -/
def State.startSave (s : State) (a : Area) (o : SaveOrigin) : State :=
  { s with stc := { s.stc with
      store := .saving (s.newSave a o)
      autosaveCount := match a with
        | .site => s.stc.autosaveCount
        | .model => 0 } }

/-- A MODEL or SITE SAVE request's owner: BUSY while a save is in flight, else a reservation and a save of kind REQUESTED (R190, R175).
Before loading ends it is not reached (R174). -/
def State.requestSave (s : State) (k : Port) (kind : Nat) (a : Area) : State :=
  match s.stc.store with
  | .idle => (s.onPort k TenantPort.reserve).startSave a (.requested k)
  | _ => s.respond k kind (resultOnly .busy)

/-- The owner's answer to SITE SAVE (R190). -/
def answerSiteSave (k : Port) (s : State) : State := s.requestSave k 0x13 .site

/-- The owner's answer to MODEL SAVE (R190). -/
def answerModelSave (k : Port) (s : State) : State := s.requestSave k 0x14 .model

/-- An autosave is due: the interval is not 0, and the count has reached 3,600 times it (R191). -/
def State.autosaveDue (s : State) : Bool :=
  let h := s.site.nat .autosaveInterval
  decide (h ≠ 0 ∧ 3600 * h ≤ s.stc.autosaveCount)

/-- AUTOSAVE (R191): at an epoch at which an autosave is due, the store is IDLE and no emergency save is pending. At any other instant it
changes nothing (log entry 5). -/
def execAutosave (s : State) : Host.Outcome State Fault Refusal :=
  whileRunning s (fun s =>
    match s.stc.store with
    | .idle => if s.tsu.phase = 0 ∧ s.autosaveDue = true ∧ s.stc.pendingEmergency = false then s.startSave .model .auto else s
    | _ => s)

/-- POWER_FAIL_WARNING (R192). -/
def execPowerFailWarning (s : State) : Host.Outcome State Fault Refusal :=
  whileRunning s (fun s =>
    match s.stc.store with
    | .idle => s.startSave .model .emergency
    | .saving v => if v.origin.isEmergency then s else { s with stc := { s.stc with pendingEmergency := true } }
    | _ => s)

/-! ## The end of a save (R189, R190, R194) -/

/-- The owed erases after a save of which `done` operations completed: those carried out are no longer owed, and a failed save owes one for
its own area (R189). -/
def Stc.owe (x : Stc) (v : Save) (ok : Bool) (done : Nat) : Stc :=
  let left := x.owed.drop done
  { x with
    owedSite := left.contains .site || (!ok && v.area == .site)
    owedModel := left.contains .model || (!ok && v.area == .model) }

/-- The result code of a save. -/
def saveResult (ok : Bool) : ResultCode := if ok then .ok else .failed

/-- The payload of a STORE notice: 24 bytes (R194, R197). -/
def State.storeNotice (s : State) (v : Save) (ok : Bool) : List Byte :=
  List.flatten
    [timeField s.now, u1 v.area.code, u1 v.origin.kind.code, u1 (saveResult ok).code, saveTimeField v.time,
     u1 (flagsByte [s.stc.pendingEmergency]), u1 s.stc.store.code]

/-- The request kind of a save of an area (section 11.2). -/
def Area.requestKind : Area → Nat
  | .site => 0x13
  | .model => 0x14

/-- A save's end told: the deferred response of a REQUESTED save, or a STORE notice (R175, R190, R194). -/
def State.tellSave (s : State) (v : Save) (ok : Bool) : State :=
  match v.origin with
  | .requested k =>
    s.onPort k (fun p => p.redeem s.tsu.phase
      { notice := none, kind := byte v.area.requestKind, payload := List.append (resultOnly (saveResult ok)) (saveTimeField v.time) })
  | _ => s.noticeAll .store (s.storeNotice v ok)

/-- A pending emergency save started at the end of the save in flight (R189, R192). -/
def State.startPending (s : State) : State :=
  if s.stc.pendingEmergency then
    let s := s.startSave .model .emergency
    { s with stc := { s.stc with pendingEmergency := false } }
  else s

/-- What the end of a save records, before it is told: the device, the erases owed, the last save record, the site-default flag, and the
store state, which stays SAVING where an emergency save is pending (R189; log entries 34 and 45). -/
def State.recordSave (s : State) (v : Save) (ok : Bool) (done begun : Nat) : State :=
  let stc := s.stc.owe v ok done
  { s with
    flash := s.flash.after v done begun
    sst := { s.sst with siteDefault := s.sst.siteDefault && !(ok && v.area == .site) }
    stc := { stc with
      lastSave := some ⟨v.area, v.origin.kind, ok, v.time⟩
      store := if stc.pendingEmergency then stc.store else .idle } }

/-- The end of a save (R189, R190, R192, R194). -/
def State.endSave (s : State) (v : Save) (ok : Bool) (done begun : Nat) : State :=
  ((s.recordSave v ok done begun).tellSave v ok).startPending

/-- SAVE_END (R189), at phase `t`: the device completed `clean` operations before one showed the error indication; the save ends OK where it
completed them all. Without a save in flight it changes nothing (log entry 5). -/
def execSaveEnd (t clean : Nat) (s : State) : Host.Outcome State Fault Refusal :=
  whileRunning s (fun s =>
    match s.stc.store with
    | .saving v =>
      (s.advanceTo t).endSave v (decide (v.ops.length ≤ clean)) clean (clean + 1)
    | _ => s.advanceTo t)

/-- The operations begun of a save cut short (R189). -/
def begunOps (x : SaveProgress) : Nat := x.done + onOff x.begun

/-- SAVE_TIMEOUT (R189), at phase `t`: 3 s have passed since the save's start, and at least one operation has not completed
(log entry 35). -/
def execSaveTimeout (t : Nat) (progress : SaveProgress) (s : State) : Host.Outcome State Fault Refusal :=
  whileRunning s (fun s =>
    match s.stc.store with
    | .saving v =>
      let x : SaveProgress := { progress with done := min progress.done (v.ops.length - 1) }
      (s.advanceTo t).endSave v false x.done (begunOps x)
    | _ => s.advanceTo t)

/-! ## Hardware reset (R16, R189) -/

/-- The memory device after a hardware reset that may cut a save short (R189; log entry 35). -/
def State.flashAtReset (s : State) (progress : SaveProgress) : Flash :=
  match s.stc.store with
  | .saving v => s.flash.after v progress.done (begunOps progress)
  | _ => s.flash

/-- HARDWARE_RESET (R16): every block returns to its reset values. -/
def execHardwareReset (cause : StartCause) (progress : SaveProgress) (s : State) : Host.Outcome State Fault Refusal :=
  .next (State.resetWith cause (s.flashAtReset progress) s.pending)

/-- RESET_RELEASE (R16, R148, R193): the time scale begins to count, the first sensor sequence starts and the SITE area is read. Where reset
is not held it changes nothing. -/
def execResetRelease (s : State) : Host.Outcome State Fault Refusal :=
  .next (if s.running then s else { s with running := true, ssq := { s.ssq with inProgress := true } })

/-! ## Reading the areas (R188, R193) -/

/-- The content of an area's image, if it is valid: its signature, its length and its CRC-16 (R188, section 11.8). -/
def Area.contentOf (a : Area) (image : List Byte) : Option (List Byte) :=
  let n := a.contentLength
  let body := image.take (8 + n)
  if slice 0 4 image = a.signature ∧ natOf (slice 4 4 image) = n ∧ body.length = 8 + n ∧
      slice (8 + n) 2 image = beBytes 2 (crc16 body).toNat then some (slice 8 n image)
  else none

/-- The content that the read of an area gives (R188). -/
def readArea (a : Area) (answered : Bool) (stored : Option (List Byte)) : Option (List Byte) :=
  if answered then stored.bind a.contentOf else none

/-- Records of a size from bytes, `n` of them. -/
def recordsOf : Nat → Nat → List Byte → List (List Byte)
  | 0, _, _ => []
  | n + 1, size, bs => bs.take size :: recordsOf n size (bs.drop size)

/-- An entry of the SITE content applied: its value, clamped into the field's range (R188, R193; log entry 24). -/
def loadEntry (r : SiteRecord) (entry : List Byte) : SiteRecord :=
  match Setting.named (natOf (slice 0 1 entry)) (natOf (slice 1 1 entry)) with
  | none => r
  | some x => r.put x (x.clamped (intOf (slice 2 6 entry)))

/-- The record that a SITE content gives (R193). A field for which the content has no entry keeps its factory value, and of two entries for one
field the later stands (log entry 24). -/
def siteOf (content : List Byte) : SiteRecord := (recordsOf 78 8 content).foldl loadEntry .factory

/-- A clamped unsigned field. -/
def natIn (lo hi : Nat) (bs : List Byte) : Nat := max lo (min hi (natOf bs))

/-- An on/off byte of a store area: any value but 0 is on (R188; log entry 24). -/
def onIn (bs : List Byte) : Bool := natOf bs != 0

/-- A bin from its place (section 11.8; clamps by R188). -/
def binOf (bs : List Byte) : Bin :=
  { start := secOf (slice 0 6 bs), finish := secOf (slice 6 6 bs), centre := secOf (slice 12 6 bs), mean := intOf (slice 18 4 bs),
    temp := clamp (-1024) 3070 (intOf (slice 22 2 bs)), spread := natOf (slice 24 4 bs), samples := natIn 300 900 (slice 28 2 bs),
    disturbed := onIn (slice 30 1 bs) }

/-- A table entry from its place (clamps by R188). -/
def tableEntryOf (bs : List Byte) : TableEntry := ⟨clampAbs 2000000 (intOf (slice 0 4 bs)), natOf (slice 4 1 bs)⟩

/-- The entry cause of an encoding, clamped (R188, R195). -/
def entryCauseOf (n : Nat) : EntryCause :=
  if n = 0 then .referenceLost else if n = 1 then .allFaulted else if n = 2 then .inhibited else .dispute

/-- The exit cause of an encoding, clamped (R188, R195). -/
def exitCauseOf (n : Nat) : Option ExitCause := if n = 0 then none else if n = 1 then some .reacquired else some .interrupted

/-- An episode record from its 27 bytes (R198; clamps by R188). -/
def episodeOf (bs : List Byte) : Episode :=
  let flags : Byte := BitVec.ofNat 8 (natOf (slice 8 1 bs))
  { number := natIn 1 65535 (slice 0 2 bs)
    start := secOf (slice 2 6 bs)
    traceable := flags.getLsbD 0
    modelCleared := flags.getLsbD 1
    entryMode := if flags.getLsbD 2 then .assisted else .predicted
    entryCause := entryCauseOf (natOf (slice 9 1 bs))
    exitCause := exitCauseOf (natOf (slice 10 1 bs))
    duration := some (natOf (slice 11 4 bs))
    boundAtExit := some (natIn 0 4000000000 (slice 15 4 bs))
    e1 := if flags.getLsbD 4 then some (intOf (slice 19 6 bs)) else none
    scoreBefore := natIn 16 64 (slice 25 1 bs)
    scoreAfter := if flags.getLsbD 5 then some (natIn 16 64 (slice 26 1 bs)) else none }

/-- What a MODEL content restores (R94, R137, R193, section 11.8). -/
structure Restored where
  model : Model
  score : Nat
  nextNumber : Nat
  episodes : List Episode
  marker : Bool
  time : SaveTime
  deriving DecidableEq, Repr

/-- The model of a MODEL content (section 11.8; clamps by R188). -/
def modelOf (c : List Byte) : Model :=
  { table := (recordsOf 64 5 c).map tableEntryOf
    slope := clampAbs 320000 (intOf (slice 320 4 c))
    slopeValid := onIn (slice 324 1 c)
    anchor := if onIn (slice 325 1 c) then some ⟨secOf (slice 326 6 c), intOf (slice 332 4 c)⟩ else none
    f1Bias := clampAbs 10000000 (intOf (slice 337 4 c))
    history := (recordsOf (natIn 0 96 (slice 341 1 c)) 31 (c.drop 342)).map binOf }

/-- What a MODEL content restores (section 11.8; clamps by R188). -/
def restoredOf (c : List Byte) : Restored :=
  { model := modelOf c
    score := natIn 16 64 (slice 336 1 c)
    nextNumber := natIn 1 65535 (slice 3318 2 c)
    episodes := (recordsOf (natIn 0 16 (slice 3320 1 c)) 27 (c.drop 3321)).map episodeOf
    marker := onIn (slice 3753 1 c)
    time := ⟨secOf (slice 3754 6 c), onIn (slice 3760 1 c)⟩ }

/-! ## Start-up (R193) -/

/-- The SST and the STC after the read of the SITE area (R193 step 1). F1's previous d is kept, whatever nominal frequency is loaded (log
entry 38). -/
def State.loadSite (s : State) (content : Option (List Byte)) : State :=
  let record := (content.map siteOf).getD s.sst.record
  { s with
    sst := { s.sst with
      record := record
      siteDefault := s.sst.siteDefault || content.isNone
      frozen := s.sst.frozen || record.flag .startFrozen }
    stc := { s.stc with store := .loadingModel, siteFromStore := content.isSome } }

/-- SITE_LOAD (R193). Where no read of the SITE area is in progress, it changes nothing (log entry 5). -/
def execSiteLoad (answered : Bool) (s : State) : Host.Outcome State Fault Refusal :=
  whileRunning s (fun s =>
    match s.stc.store with
    | .loadingSite => s.loadSite (readArea .site answered s.flash.site)
    | _ => s)

/-- What a valid MODEL area restores put in place (R193 step 2). -/
def State.restore (s : State) (x : Restored) : State :=
  { s with
    lrn := { s.lrn with model := x.model }
    hop := { s.hop with score := x.score, nextNumber := x.nextNumber, episodes := x.episodes }
    stc := { s.stc with
      modelRestored := true
      previousStop := if x.marker then .clean else .unclean
      lastSave := some ⟨.model, if x.marker then .emergency else .auto, true, x.time⟩ } }

/-- A restored newest record without an exit cause closed INTERRUPTED, with its EPISODE notice (R137, R140). -/
def State.interruptEpisode (s : State) : State :=
  if newestOpen s.hop.episodes then { s with hop := { s.hop with episodes := interrupt s.hop.episodes } }.noticeEpisode true else s

/-- The end of loading: the store is IDLE, records are inhibited by the loaded settings, and the verdict is recomputed (R43, R114,
R193 step 3). -/
def State.endLoading (s before : State) : State :=
  ({ s with stc := { s.stc with store := .idle } }.inhibitAtStart).reportHealth before

/-- The second and third steps of loading (R193). -/
def State.loadModel (s : State) (content : Option (List Byte)) : State :=
  match content with
  | none => s.endLoading s
  | some c => (s.restore (restoredOf c)).interruptEpisode.endLoading s

/-- MODEL_LOAD (R193), at phase `t`. Where no read of the MODEL area is in progress, it changes nothing but the instant (log entry 5). -/
def execModelLoad (t : Nat) (answered : Bool) (s : State) : Host.Outcome State Fault Refusal :=
  whileRunning s (fun s =>
    let s := s.advanceTo t
    match s.stc.store with
    | .loadingModel => s.loadModel (readArea .model answered s.flash.model)
    | _ => s)

end Sys2Proof.Machine
end

