-- ==== Sys2Proof/Machine/Ports.lean ====
section
/-! DEFINITION. The tenant ports (chapter 9): transactions, frames judged and dispatched, the port's own requests, and the meaning of
every request command as a whole transaction (log entry 7). -/

namespace Sys2Proof.Machine

open Sys2Proof

/-! ## Transactions (section 9.2) -/

/-- The number of bytes of an outbound frame: status, kind, length, payload, CRC (section 11.2). -/
def Transmit.size (x : Transmit) : Nat := 4 + (x.frame.map (fun f => f.payload.length)).getD 0

/-- The bytes of an outbound frame; the idle frame has kind 00h and no payload (section 11.2, R196). -/
def Transmit.bytes (x : Transmit) : List Byte :=
  let body := match x.frame with
    | none => [x.status, 0, 0]
    | some f => x.status :: f.kind :: byte f.payload.length :: f.payload
  List.append body [crc8 body]

/-- The first SCK edge: the head of the queue, or the idle frame, becomes the transmit frame with its status byte (R171). An edge within a
transaction in progress is not its first. -/
def TenantPort.begin (p : TenantPort) : TenantPort :=
  match p.transmit, p.queue with
  | some _, _ => p
  | none, [] => { p with transmit := some ⟨none, statusByte 0 p.dropped p.state, false⟩ }
  | none, f :: fs => { p with queue := fs, transmit := some ⟨some f, statusByte fs.length p.dropped p.state, false⟩ }

/-- The status byte has been clocked out in full: the dropped flag clears (R171). -/
def TenantPort.statusOut (p : TenantPort) : TenantPort :=
  match p.transmit with
  | none => p
  | some x => if x.statusOut then p else { p with dropped := false, transmit := some { x with statusOut := true } }

/-- The transaction ends with `sent` bytes clocked out: a frame of the queue that is cut short is lost and sets the dropped flag (R171). -/
def TenantPort.finish (p : TenantPort) (sent : Nat) : TenantPort :=
  match p.transmit with
  | none => p
  | some x => { p with transmit := none, dropped := p.dropped || (x.frame.isSome && decide (sent < x.size)) }

/-- The transaction ends with the outbound frame delivered (R171). -/
def TenantPort.delivered (p : TenantPort) : TenantPort := { p with transmit := none }

/-- TRANSACTION_START (R171). -/
def execTransactionStart (k : Port) (s : State) : Host.Outcome State Fault Refusal :=
  whileRunning s (fun s => s.onPort k TenantPort.begin)

/-- STATUS_BYTE_CLOCKED_OUT (R171). -/
def execStatusByteClockedOut (k : Port) (s : State) : Host.Outcome State Fault Refusal :=
  whileRunning s (fun s => s.onPort k TenantPort.statusOut)

/-! ## Bad and good frames (section 9.3) -/

/-- What a port notes before a good frame: its state and its bad-frame count (R173, R182). -/
structure PortNote where
  state : PortState
  badCount : Nat
  deriving DecidableEq, Repr

/-- The note of a port. -/
def TenantPort.note (p : TenantPort) : PortNote := ⟨p.state, p.badCount⟩

/-- A bad frame counted; at the fault limit, or above it, a NORMAL port becomes SUSPECT (R173). -/
def TenantPort.badFrame (p : TenantPort) : TenantPort :=
  let n := satSucc 255 p.badCount
  { p with badCount := n, state := if p.faultLimit ≤ n then .suspect else p.state }

/-- A good frame taken: the count is 0 and the state NORMAL (R173). -/
def TenantPort.goodFrame (p : TenantPort) : TenantPort := { p with badCount := 0, state := .normal }

/-! ## The port's own requests (section 9.7) -/

/-- An attention-mode byte (section 11.2). -/
def attentionModeOf (b : Byte) : Option AttentionMode := if b.toNat = 0 then some .level else if b.toNat = 1 then some .pulse else none

/-- An attention-polarity byte (section 11.2). -/
def attentionPolarityOf (b : Byte) : Option AttentionPolarity :=
  if b.toNat = 0 then some .activeLow else if b.toNat = 1 then some .activeHigh else none

/-- The fault limit applied for a byte: itself, or the next above it among 1, 2, 4 and 8, or 8 (R180). -/
def faultLimitOf (n : Nat) : Nat := if n ≤ 1 then 1 else if n ≤ 2 then 2 else if n ≤ 4 then 4 else 8

/-- The attention settings applied: a pulse in progress goes on only within PULSE mode (R179, R180). -/
def TenantPort.attend (p : TenantPort) (m : AttentionMode) (q : AttentionPolarity) (limit : Nat) : TenantPort :=
  { p with
    mode := m
    polarity := q
    faultLimit := limit
    pulseEnd := if m = .pulse ∧ p.mode = .pulse then p.pulseEnd else none }

/-- The answer to PORT SET (R180, R197). -/
def answerPortSet (k : Port) (mode polarity limit : Byte) (s : State) : State :=
  match attentionModeOf mode, attentionPolarityOf polarity with
  | some m, some q =>
    let n := faultLimitOf limit.toNat
    let result : ResultCode := if n = limit.toNat then .ok else .clamped
    (s.onPort k (fun p => p.attend m q n)).respond k 0x04 (List.flatten [u1 result.code, u1 m.code, u1 q.code, u1 n])
  | _, _ => s.respond k 0x04 (resultOnly .malformed)

/-- The port after PORT RESET, steps 1 to 3: a reservation is kept (R181). -/
def TenantPort.clear (p : TenantPort) : TenantPort := { TenantPort.reset with reservation := p.reservation, transmit := p.transmit }

/-- The answer to PORT RESET (R181). -/
def answerPortReset (k : Port) (s : State) : State :=
  ((s.onPort k TenantPort.clear).flushWindow k).respond k 0x05 (resultOnly .ok)

/-- The number of the open episode, or 0 for none (R182, section 11.5). -/
def Hop.openNumber (h : Hop) : Nat :=
  match h.isOpen, h.episodes with
  | true, e :: _ => e.number
  | _, _ => 0

/-- The response to STATUS: 32 bytes (R182, section 11.5). -/
def State.statusResponse (s : State) (k : Port) (note : PortNote) : List Byte :=
  let p := s.tp.get k
  List.flatten
    [u1 0, timeField s.now,
     u1 (flagsByte [s.tsu.traceable, s.f1Available, s.sst.frozen, s.sst.siteDefault, note.state == .suspect, p.reservation]),
     u1 s.tsu.cls, uField 4 s.tsu.bound, u1 s.dlp.engine.code, u1 s.dlp.engine.modeCode, u1 (phaseRefCode s.dlp.engine.followed),
     u1 (phaseRefCode s.rqu.selected), uField 2 s.rqu.changeCount, uField 2 s.hop.openNumber, u1 s.lrn.verdict.code,
     u1 s.sdc.steering.code, u1 s.stc.store.code, u1 note.badCount, u1 p.queue.length]

/-- The answer to STATUS (R182). -/
def answerStatus (k : Port) (note : PortNote) (s : State) : State := s.respond k 0x02 (s.statusResponse k note)

/-- The identity record without its integrity byte (R183, section 11.5). -/
def Stc.identity (x : Stc) : List Byte :=
  List.flatten
    [[0x03, 0xA7, 0x12, 0x16, 1, 4, 7, 32, 96, 64, 16, 8], u1 (onOff (!x.siteFromStore)), u1 (onOff (!x.modelRestored)),
     u1 (startCode x.startCause), u1 x.previousStop.code]

/-- The identity record: 17 bytes that sum to 0 modulo 256 (R183, R196). -/
def Stc.identityRecord (x : Stc) : List Byte := List.append x.identity [integrityByte x.identity]

/-- The answer to IDENTIFY (R183). -/
def answerIdentify (k : Port) (s : State) : State := s.respond k 0x03 (0 :: s.stc.identityRecord)

/-! ## Dispatch (section 9.4) -/

/-- The requests answered in every state of the store: IDENTIFY and STATUS (R174). -/
def Request.always : Request → Bool
  | .status => true
  | .identify => true
  | _ => false

/-- The owning block answers a request (R174 order 5); POLL has no response (order 3). -/
def State.answer (s : State) (k : Port) (note : PortNote) : Request → State
  | .poll => s
  | .status => answerStatus k note s
  | .identify => answerIdentify k s
  | .portSet m p l => answerPortSet k m p l s
  | .portReset => answerPortReset k s
  | .offsetReport f => answerOffsetReport k note.state f s
  | .referenceGet i x => answerReferenceGet k i x s
  | .historyGet i => answerHistoryGet k i s
  | .tableGet i => answerTableGet k i s
  | .healthGet => answerHealthGet k s
  | .modelClear => answerModelClear k s
  | .episodeGet i x => answerEpisodeGet k i x s
  | .sensorGet => answerSensorGet k s
  | .channelSet f => answerChannelSet k f s
  | .channelGet => answerChannelGet k s
  | .siteGet i n => answerSiteGet k i n s
  | .siteSet i n v => answerSiteSet k i n v s
  | .siteFreeze => answerSiteFreeze k s
  | .siteSave => answerSiteSave k s
  | .modelSave => answerModelSave k s

/-- A request dispatched: POLL has no response, most requests meet BUSY while the store is LOADING, any other is answered by its owner (R174
orders 3 to 5). -/
def State.dispatch (s : State) (k : Port) (note : PortNote) (q : Request) : State :=
  if q = .poll then s
  else if s.stc.store.isLoading = true ∧ q.always = false then s.respond k q.kind (resultOnly .busy)
  else s.answer k note q

/-- A good frame's kind and payload dispatched (R174). -/
def State.dispatchFrame (s : State) (k : Port) (note : PortNote) (kind : Byte) (payload : List Byte) : State :=
  match parse kind payload with
  | .unknown => s.respond k kind.toNat (resultOnly .unknown)
  | .malformed => s.respond k kind.toNat (resultOnly .malformed)
  | .request q => s.dispatch k note q

/-- The inbound frame of a transaction that has ended (R172 to R174). -/
def State.receive (s : State) (k : Port) (x : Inbound) : State :=
  match x with
  | .bad => s.onPort k TenantPort.badFrame
  | .good kind payload => (s.onPort k TenantPort.goodFrame).dispatchFrame k (s.tp.get k).note kind payload

/-- FRAME_RECEIVED (R172), at phase `t`: the release of CS. Without a transaction in progress nothing was received (R171; log entry 8). -/
def execFrameReceived (k : Port) (t : Nat) (bytes : List Byte) (s : State) : Host.Outcome State Fault Refusal :=
  whileRunning s (fun s =>
    let s := s.advanceTo t
    if (s.tp.get k).transmit.isSome then
      (s.onPort k (fun p => p.finish bytes.length)).receive k (judgeFrame bytes)
    else s)

/-! ## The attention pulse (section 9.6) -/

/-- ATTENTION_PULSE_END (R179), at its instant. Without a pulse in progress, or before the epoch that its instant follows, it changes
nothing (log entry 5). -/
def execAttentionPulseEnd (k : Port) (s : State) : Host.Outcome State Fault Refusal :=
  whileRunning s (fun s =>
    match (s.tp.get k).pulseEnd with
    | none => s
    | some e => if e < s.tsu.interval then (s.advanceTo e).onPort k (fun p => { p with pulseEnd := none }) else s)

/-! ## The request commands (log entry 7) -/

/-- A whole transaction that carries a request in a good frame and collects the outbound frame in full (R171 to R174). -/
def State.request (s : State) (k : Port) (t : Nat) (q : Request) : State :=
  let s := (s.advanceTo t).onPort k (fun p => p.begin.statusOut.delivered)
  (s.onPort k TenantPort.goodFrame).dispatch k (s.tp.get k).note q

/-- POLL (R174): the head of the queue is collected, and there is no response. -/
def execPoll (k : Port) (t : Nat) (s : State) : Host.Outcome State Fault Refusal := whileRunning s (fun s => s.request k t .poll)

/-- STATUS (R182). -/
def execStatus (k : Port) (t : Nat) (s : State) : Host.Outcome State Fault Refusal := whileRunning s (fun s => s.request k t .status)

/-- IDENTIFY (R183). -/
def execIdentify (k : Port) (t : Nat) (s : State) : Host.Outcome State Fault Refusal := whileRunning s (fun s => s.request k t .identify)

/-- PORT SET (R180). -/
def execPortSet (k : Port) (t : Nat) (mode polarity limit : Byte) (s : State) : Host.Outcome State Fault Refusal :=
  whileRunning s (fun s => s.request k t (.portSet mode polarity limit))

/-- PORT RESET (R181). -/
def execPortReset (k : Port) (t : Nat) (s : State) : Host.Outcome State Fault Refusal := whileRunning s (fun s => s.request k t .portReset)

/-- OFFSET REPORT (R30). -/
def execOffsetReport (k : Port) (t : Nat) (fields : OffsetFields) (s : State) : Host.Outcome State Fault Refusal :=
  whileRunning s (fun s => s.request k t (.offsetReport fields))

/-- REFERENCE GET (R68). -/
def execReferenceGet (k : Port) (t : Nat) (index sect : Byte) (s : State) : Host.Outcome State Fault Refusal :=
  whileRunning s (fun s => s.request k t (.referenceGet index sect))

/-- HISTORY GET (R110). -/
def execHistoryGet (k : Port) (t : Nat) (index : Byte) (s : State) : Host.Outcome State Fault Refusal :=
  whileRunning s (fun s => s.request k t (.historyGet index))

/-- TABLE GET (R111). -/
def execTableGet (k : Port) (t : Nat) (first : Byte) (s : State) : Host.Outcome State Fault Refusal :=
  whileRunning s (fun s => s.request k t (.tableGet first))

/-- HEALTH GET (R115). -/
def execHealthGet (k : Port) (t : Nat) (s : State) : Host.Outcome State Fault Refusal := whileRunning s (fun s => s.request k t .healthGet)

/-- MODEL CLEAR (R112). -/
def execModelClear (k : Port) (t : Nat) (s : State) : Host.Outcome State Fault Refusal :=
  whileRunning s (fun s => s.request k t .modelClear)

/-- EPISODE GET (R139). -/
def execEpisodeGet (k : Port) (t : Nat) (index sect : Byte) (s : State) : Host.Outcome State Fault Refusal :=
  whileRunning s (fun s => s.request k t (.episodeGet index sect))

/-- SENSOR GET (R156). -/
def execSensorGet (k : Port) (t : Nat) (s : State) : Host.Outcome State Fault Refusal := whileRunning s (fun s => s.request k t .sensorGet)

/-- CHANNEL SET (R158). -/
def execChannelSet (k : Port) (t : Nat) (fields : ChannelFields) (s : State) : Host.Outcome State Fault Refusal :=
  whileRunning s (fun s => s.request k t (.channelSet fields))

/-- CHANNEL GET (R160). -/
def execChannelGet (k : Port) (t : Nat) (s : State) : Host.Outcome State Fault Refusal :=
  whileRunning s (fun s => s.request k t .channelGet)

/-- SITE GET (R185). -/
def execSiteGet (k : Port) (t : Nat) (ident inst : Byte) (s : State) : Host.Outcome State Fault Refusal :=
  whileRunning s (fun s => s.request k t (.siteGet ident inst))

/-- SITE SET (R186). -/
def execSiteSet (k : Port) (t : Nat) (ident inst : Byte) (value : BitVec 48) (s : State) : Host.Outcome State Fault Refusal :=
  whileRunning s (fun s => s.request k t (.siteSet ident inst value))

/-- SITE FREEZE (R187). -/
def execSiteFreeze (k : Port) (t : Nat) (s : State) : Host.Outcome State Fault Refusal :=
  whileRunning s (fun s => s.request k t .siteFreeze)

/-- SITE SAVE (R190). -/
def execSiteSave (k : Port) (t : Nat) (s : State) : Host.Outcome State Fault Refusal := whileRunning s (fun s => s.request k t .siteSave)

/-- MODEL SAVE (R190). -/
def execModelSave (k : Port) (t : Nat) (s : State) : Host.Outcome State Fault Refusal :=
  whileRunning s (fun s => s.request k t .modelSave)

end Sys2Proof.Machine
end

