-- ==== Sys2Proof/Machine/Dispatch.lean ====
section
/-! DEFINITION. The dispatch: one arm for each command, each a direct call of its meaning. -/

namespace Sys2Proof.Machine

open Sys2Proof

/-- The effect of a command on everything but the queue. -/
def exec (i : Instr) (s : State) : Host.Outcome State Fault Refusal :=
  match i with
  | .hardwareReset cause progress => Sys2Proof.Machine.execHardwareReset cause progress s
  | .resetRelease => Sys2Proof.Machine.execResetRelease s
  | .siteLoad answered => Sys2Proof.Machine.execSiteLoad answered s
  | .modelLoad t answered => Sys2Proof.Machine.execModelLoad t answered s
  | .epoch => Sys2Proof.Machine.execEpoch s
  | .autosave => Sys2Proof.Machine.execAutosave s
  | .holdOffExpiry r => Sys2Proof.Machine.execHoldOffExpiry r s
  | .settlingExpiry => Sys2Proof.Machine.execSettlingExpiry s
  | .loopUpdate order => Sys2Proof.Machine.execLoopUpdate order s
  | .slewTick k => Sys2Proof.Machine.execSlewTick k s
  | .pulseArrival p t => Sys2Proof.Machine.execPulseArrival p t s
  | .companionRecord p bytes => Sys2Proof.Machine.execCompanionRecord p bytes s
  | .staleTimerExpiry k => Sys2Proof.Machine.execStaleTimerExpiry k s
  | .pulseDue k => Sys2Proof.Machine.execPulseDue k s
  | .pulseEnd k => Sys2Proof.Machine.execPulseEnd k s
  | .attentionPulseEnd k => Sys2Proof.Machine.execAttentionPulseEnd k s
  | .sensorSequenceStart => Sys2Proof.Machine.execSensorSequenceStart s
  | .vctlSample => Sys2Proof.Machine.execVctlSample s
  | .sequenceComplete t raw => Sys2Proof.Machine.execSequenceComplete t raw s
  | .transactionStart k => Sys2Proof.Machine.execTransactionStart k s
  | .frameReceived k t bytes => Sys2Proof.Machine.execFrameReceived k t bytes s
  | .poll k t => Sys2Proof.Machine.execPoll k t s
  | .status k t => Sys2Proof.Machine.execStatus k t s
  | .identify k t => Sys2Proof.Machine.execIdentify k t s
  | .portSet k t mode polarity limit => Sys2Proof.Machine.execPortSet k t mode polarity limit s
  | .portReset k t => Sys2Proof.Machine.execPortReset k t s
  | .offsetReport k t fields => Sys2Proof.Machine.execOffsetReport k t fields s
  | .referenceGet k t index sect => Sys2Proof.Machine.execReferenceGet k t index sect s
  | .historyGet k t index => Sys2Proof.Machine.execHistoryGet k t index s
  | .tableGet k t first => Sys2Proof.Machine.execTableGet k t first s
  | .healthGet k t => Sys2Proof.Machine.execHealthGet k t s
  | .modelClear k t => Sys2Proof.Machine.execModelClear k t s
  | .episodeGet k t index sect => Sys2Proof.Machine.execEpisodeGet k t index sect s
  | .sensorGet k t => Sys2Proof.Machine.execSensorGet k t s
  | .channelSet k t fields => Sys2Proof.Machine.execChannelSet k t fields s
  | .channelGet k t => Sys2Proof.Machine.execChannelGet k t s
  | .siteGet k t ident inst => Sys2Proof.Machine.execSiteGet k t ident inst s
  | .siteSet k t ident inst value => Sys2Proof.Machine.execSiteSet k t ident inst value s
  | .siteFreeze k t => Sys2Proof.Machine.execSiteFreeze k t s
  | .siteSave k t => Sys2Proof.Machine.execSiteSave k t s
  | .modelSave k t => Sys2Proof.Machine.execModelSave k t s
  | .saveEnd t clean => Sys2Proof.Machine.execSaveEnd t clean s
  | .saveTimeout t progress => Sys2Proof.Machine.execSaveTimeout t progress s
  | .powerFailWarning => Sys2Proof.Machine.execPowerFailWarning s
  | .f1Edge t => Sys2Proof.Machine.execF1Edge t s
  | .statusByteClockedOut k => Sys2Proof.Machine.execStatusByteClockedOut k s

end Sys2Proof.Machine
end

