-- ==== Sys2Proof/Safety.lean ====
section
/-! DEFINITION. The terms in which claims about the part are made: the invariants of its blocks, when a request finds a port ready for it,
and what a transaction that is answered leaves. -/

namespace Sys2Proof.Safety

open Sys2Proof Sys2Proof.Machine

/-! ## Invariants of the blocks -/

/-- The interval's length and the pending remainder lie in the ranges of R7 and R8, and the phase lies in the interval (R1). -/
abbrev TimeRegular (x : Tsu) : Prop :=
  500000000000 ≤ x.interval ∧ x.interval ≤ 1499999999999 ∧ x.phase < x.interval ∧
  -500000000000 < x.remainder.getD 0 ∧ x.remainder.getD 0 ≤ 500000000000

/-- The engine is in FREERUN. -/
def inFreerun : Engine → Bool
  | .freerun _ => true
  | _ => false

/-- The engine is in HOLDOVER. -/
def inHoldover : Engine → Bool
  | .holdover _ => true
  | _ => false

/-- The engine is in FREERUN exactly while the time scale is untraceable (R70). -/
abbrev EngineTraceable (s : State) : Prop := inFreerun s.dlp.engine = !s.tsu.traceable

/-- The notice kinds (section 9.5). -/
def noticeKinds : List NoticeKind :=
  [.timeMark, .stateChange, .referenceChange, .budget, .health, .settings, .episode, .store]

/-- The notices of a kind in a queue. -/
def noticeCount (q : List Frame) (k : NoticeKind) : Nat := (q.filter (Frame.isNotice k)).length

/-- A queue's frames and reservation number at most 8, and it holds at most one notice of each kind (R175, R176). -/
abbrev QueueSound (p : TenantPort) : Prop := p.places ≤ 8 ∧ ∀ k ∈ noticeKinds, noticeCount p.queue k ≤ 1

/-- Every port's queue is sound. -/
abbrev QueuesSound (s : State) : Prop := ∀ k ∈ ports, QueueSound (s.tp.get k)

/-- The target and output codes are codes of the DAC (R141). -/
abbrev CodesInRange (d : Sdc) : Prop := d.target ≤ 1048575 ∧ d.output ≤ 1048575

/-- The sizes and ranges of the model and of the episode list (R94, R101, R107 to R109, R138). -/
abbrev ModelSized (s : State) : Prop :=
  s.lrn.model.history.length ≤ 96 ∧ s.lrn.model.table.length = 64 ∧
  (∀ x ∈ s.lrn.model.table, x.v.natAbs ≤ 2000000 ∧ x.w ≤ 255) ∧
  s.lrn.model.slope.natAbs ≤ 320000 ∧ s.lrn.model.f1Bias.natAbs ≤ 10000000 ∧ s.hop.episodes.length ≤ 16

/-- The selected reference is eligible: QUALIFIED, not disputed, priority 1 to 14; and until loading ends every record is ABSENT and none is
selected (R43, R63). -/
abbrev SelectionSound (s : State) : Prop :=
  (∀ r ∈ phaseRefs, s.rqu.selected = some r → s.eligible r = true) ∧
  (s.stc.store.isLoading = true → s.rqu.selected = none ∧ ∀ r ∈ refs, (s.record r).state = .absent)

/-- An episode is open exactly while the engine is in HOLDOVER; U16 is at most one second of phase; and the bound of an open episode is the
one its U16 and score in use give (R116, R127, R128, R138). -/
abbrev EpisodeSound (s : State) : Prop :=
  s.hop.isOpen = inHoldover s.dlp.engine ∧ s.hop.uncertainty ≤ 16000000000000 ∧
  (s.hop.isOpen = true → s.hop.bound = boundOf s.hop.uncertainty s.hop.scoreInUse)

/-- Every site setting lies in its range (R184). -/
abbrev SettingsInRange (s : State) : Prop := s.site.inRange = true

/-! ## Requests -/

/-- Reset has been released, and `t` is a phase of the interval in progress that has not passed. -/
abbrev Timely (s : State) (t : Nat) : Prop := s.running = true ∧ s.tsu.phase ≤ t ∧ t < s.tsu.interval

/-- The part at the phase `t`. -/
def atPhase (s : State) (t : Nat) : State := { s with tsu := { s.tsu with phase := t } }

/-- A transaction may begin on port `k` at the phase `t`. -/
abbrev Ready (s : State) (k : Port) (t : Nat) : Prop :=
  Timely s t ∧ (s.tp.get k).transmit = none ∧ (s.tp.get k).places ≤ 8

/-- A port after a transaction that carried a good frame and collected the head of the queue in full (R171, R173). -/
def collected (p : TenantPort) : TenantPort :=
  { p with queue := p.queue.tail, dropped := false, badCount := 0, state := .normal }

/-- A port whose queue a response has joined, with the attention pulse that it starts where the queue was empty in PULSE mode (R179). -/
def withResponse (p : TenantPort) (t kind : Nat) (payload : List Byte) : TenantPort :=
  { p with
    queue := List.append p.queue [{ notice := none, kind := byte kind, payload := payload }]
    pulseEnd := if p.queue = [] ∧ p.mode = .pulse then some (t + 1000000) else p.pulseEnd }

/-- The part with one port replaced, at the phase `t`. -/
def withPort (s : State) (k : Port) (t : Nat) (p : TenantPort) : State := { atPhase s t with tp := s.tp.set k p }

/-- The part at the dispatch of a request: the head collected, the frame good. -/
def atDispatch (s : State) (k : Port) (t : Nat) : State := withPort s k t (collected (s.tp.get k))

/-- The part after a transaction on port `k` whose request was answered with a payload and had no other effect. -/
def answered (s : State) (k : Port) (t kind : Nat) (payload : List Byte) : State :=
  withPort s k t (withResponse (collected (s.tp.get k)) t kind payload)

/-- The command of a request. -/
def command (k : Port) (t : Nat) : Request → Instr
  | .poll => .poll k t
  | .status => .status k t
  | .identify => .identify k t
  | .portSet m p l => .portSet k t m p l
  | .portReset => .portReset k t
  | .offsetReport f => .offsetReport k t f
  | .referenceGet i x => .referenceGet k t i x
  | .historyGet i => .historyGet k t i
  | .tableGet i => .tableGet k t i
  | .healthGet => .healthGet k t
  | .modelClear => .modelClear k t
  | .episodeGet i x => .episodeGet k t i x
  | .sensorGet => .sensorGet k t
  | .channelSet f => .channelSet k t f
  | .channelGet => .channelGet k t
  | .siteGet i n => .siteGet k t i n
  | .siteSet i n v => .siteSet k t i n v
  | .siteFreeze => .siteFreeze k t
  | .siteSave => .siteSave k t
  | .modelSave => .modelSave k t

/-- The bytes of the outbound frame that a transaction would begin with: the head of the queue, or the idle frame (R171). -/
def outboundSize (p : TenantPort) : Nat := 4 + (p.queue.head?.map (fun f => f.payload.length)).getD 0

/-- A command is a hardware reset. -/
def isReset : Instr → Bool
  | .hardwareReset _ _ => true
  | _ => false

/-- A command is the release of hardware reset. -/
def isRelease : Instr → Bool
  | .resetRelease => true
  | _ => false

/-! ## The front end and the store -/

/-- The part at the phase `t` with one pulse input replaced. -/
def withPulse (s : State) (p : PulseIn) (t : Nat) (y : PulseInput) : State :=
  { atPhase s t with rfe := { s.rfe with pulses := s.rfe.pulses.set p y } }

/-- The part with one packet window replaced. -/
def withWindow (s : State) (k : Port) (w : Window) : State := { s with rfe := { s.rfe with windows := s.rfe.windows.set k w } }

/-- The window of a port after a flush (R37): no reports, and a running stale timer restarted. -/
def flushed (s : State) (k : Port) : Window :=
  let w := s.rfe.windows.get k
  { w with reports := [], timer := w.timer.map (fun _ => s.site.nat (.stalePeriod k)) }

/-- A bin whose fields lie in their ranges, of the spec or of their places in the store (R100, section 11.8). -/
abbrev BinStorable (b : Bin) : Prop :=
  -2147483648 ≤ b.mean ∧ b.mean ≤ 2147483647 ∧ -1024 ≤ b.temp ∧ b.temp ≤ 3070 ∧ b.spread < 4294967296 ∧ 300 ≤ b.samples ∧ b.samples ≤ 900

/-- A model whose sizes and fields lie in their ranges, of the spec or of their places in the store (R94, section 11.8). -/
abbrev ModelStorable (m : Model) : Prop :=
  m.history.length ≤ 96 ∧ m.table.length = 64 ∧ (∀ x ∈ m.table, x.v.natAbs ≤ 2000000 ∧ x.w ≤ 255) ∧ m.slope.natAbs ≤ 320000 ∧
  m.f1Bias.natAbs ≤ 10000000 ∧ (∀ b ∈ m.history, BinStorable b) ∧
  ∀ a ∈ m.anchor, -2147483648 ≤ a.freq ∧ a.freq ≤ 2147483647

/-- An episode record with a duration and a bound, whose fields lie in their ranges (R138, R198). -/
abbrev EpisodeStorable (e : Episode) : Prop :=
  1 ≤ e.number ∧ e.number ≤ 65535 ∧ e.duration.isSome = true ∧ e.boundAtExit.isSome = true ∧ (∀ n ∈ e.duration, n < 4294967296) ∧
  (∀ n ∈ e.boundAtExit, n ≤ 4000000000) ∧ (∀ x ∈ e.e1, -140737488355328 ≤ x ∧ x < 140737488355328) ∧ 16 ≤ e.scoreBefore ∧
  e.scoreBefore ≤ 64 ∧ ∀ n ∈ e.scoreAfter, 16 ≤ n ∧ n ≤ 64

/-- The episode list as a save hands it over: an open record with its duration and bound so far (R137). -/
def episodesSaved (h : Hop) : List Episode :=
  match h.isOpen, h.episodes with
  | true, e :: es => { e with duration := some h.time, boundAtExit := some h.bound } :: es
  | _, es => es

/-- A predictor whose score, next number and episode list fit the store (R116, R138). -/
abbrev EpisodesStorable (h : Hop) : Prop :=
  16 ≤ h.score ∧ h.score ≤ 64 ∧ 1 ≤ h.nextNumber ∧ h.nextNumber ≤ 65535 ∧ h.episodes.length ≤ 16 ∧
  ∀ e ∈ episodesSaved h, EpisodeStorable e

/-- The image that the memory device holds in an area. -/
def imageIn (f : Flash) : Area → Option (List Byte)
  | .site => f.site
  | .model => f.model

/-! ## Companion records -/

/-- The twelve bytes that spell a companion record (R18, section 11.4). -/
def companionRecordBytes (c : Companion) : List Byte :=
  let body := List.flatten [[0xA5], beBytes 6 c.label.toNat, [byte c.rx.code, byte c.sats], beBytes 2 (c.q % 65536).toNat]
  List.append body [integrityByte body]

/-! ## Loop updates -/

/-- The part as the loop's own part of an update finds it: at the mid-interval mark, with the gates closed and the samples taken that the
order puts before the loop (R19, R28, R43, R65). -/
def atLoop (order : List UpdatePart) (s : State) : State :=
  let v := s.advanceTo (s.tsu.interval / 2)
  ((partOrder order).takeWhile (fun p => p != .loop)).foldl (State.updatePart v.gateSamples) v.closeGates

/-- The offset d of the F1 gate that closes at an update, if it gives an estimate (R28). -/
def gateOffset (s : State) : Option Int := (s.advanceTo (s.tsu.interval / 2)).gateSamples.offset

/-- The selected reference's estimate that an update may use (R72). -/
abbrev Usable (s : State) (r : PhaseRef) (x : PhaseEstimate) : Prop :=
  s.rqu.selected = some r ∧ (s.record (.phase r)).held = some ⟨x, true, true⟩ ∧ s.dlp.settling = none

/-- The selected reference, if there is one, has no estimate that an update may use (R72). -/
abbrev NoneUsable (s : State) : Prop :=
  ∀ r, s.rqu.selected = some r → ∀ h ∈ (s.record (.phase r)).held, h.fresh = false ∨ h.good = false ∨ s.dlp.settling ≠ none

/-- The increment ΔI is withheld at an update whose trial output is `raw` (R75). -/
abbrev Withheld (s : State) (raw di : Int) : Prop :=
  (s.site.val .pullRange < (raw.natAbs : Int) ∧ ((0 < di ∧ 0 < raw) ∨ (di < 0 ∧ raw < 0))) ∨
  (s.sdc.atLimit = .plus ∧ 0 < di) ∨ (s.sdc.atLimit = .minus ∧ di < 0) ∨ (s.sdc.steering = .held ∧ di ≠ 0)

/-- The integral after an increment whose trial output adds `p` (R75, R79, R129). -/
def integralAfter (s : State) (i di p : Int) : Int :=
  clampAbs (256 * s.site.val .pullRange) (if Withheld s (nearest (i + di) 256 + p) di then i else i + di)

/-- The record of the DLP after an estimate is used with the exponent `n` and the interval `delta` (R72, R74, R75, R83). -/
def estimateUsed (s : State) (d : Dlp) (n delta : Nat) (x : PhaseEstimate) : Dlp :=
  let p := clampAbs (s.site.val .slewLimit) (nearest x.e (2 ^ (n - 1)))
  let i := integralAfter s d.integral (nearest (x.e * delta * 256) (2 ^ (2 * n))) p
  { d with
    integral := i, prop := p, fOut := clampAbs (s.site.val .pullRange) (nearest i 256 + p), lastE := x.e, coarse := x.coarse
    sinceEstimate := 0, firstEstimate := false }

/-- The record of the DLP after an update that takes e as 0 and enters ACQUIRING, but for settling (R72, R74, R80, R83). -/
def estimateStepped (s : State) (d : Dlp) (r : PhaseRef) (x : PhaseEstimate) : Dlp :=
  let i := clampAbs (256 * s.site.val .pullRange) d.integral
  { d with
    engine := .acquiring r, integral := i, prop := 0, fOut := clampAbs (s.site.val .pullRange) (nearest i 256), lastE := 0
    coarse := x.coarse, sinceEstimate := 0, lockRun := 0, unlockRun := 0, firstEstimate := false }

/-- The interval Δ of an estimate of a kind (R72). -/
def intervalOf (d : Dlp) (k : PhaseKind) : Nat := if k = .pulse then 1 else max 1 (min 64 (d.sinceEstimate + 1))

/-- A first estimate is stepped (R83): it exceeds the step limit, and steps are permitted. -/
abbrev StepsOut (s : State) (x : PhaseEstimate) : Prop :=
  s.site.flag .stepPermitted = true ∧ s.site.val .stepLimit < (x.e.natAbs : Int)

/-- A step of whole-second part `whole` and picosecond part `p` has been taken since `s`, and settling is set (R7, R9, R84). -/
abbrev StepTaken (s u : State) (whole p : Int) : Prop :=
  ∃ w : Int, -500000000000 < s.tsu.remainder.getD 0 + p - w * 1000000000000 ∧
    s.tsu.remainder.getD 0 + p - w * 1000000000000 ≤ 500000000000 ∧
    u.tsu.seconds = s.tsu.seconds + BitVec.ofInt 48 (whole + w) ∧
    u.tsu.remainder.getD 0 = s.tsu.remainder.getD 0 + p - w * 1000000000000 ∧
    u.dlp.settling = some (if u.tsu.remainder = none then 1 else 2)

/-! ## Holdover -/

/-- The aging term A between two times (R122). -/
def agingOf (m : Model) (now base : Sec) : Int := if m.slopeValid = true then nearest (m.slope * secDiff now base) 1382400 else 0

/-- The temperature term C between two temperatures (R123); also that of MODEL in FREERUN (R78). -/
def temperatureOf (m : Model) (alarm : Bool) (now base : Option Int) : Int :=
  match now.bind (fun t => (m.lookup alarm t).value), base.bind (fun t => (m.lookup alarm t).value) with
  | some c, some cb => c - cb
  | _, _ => 0

/-- The temperature uncertainty E_temp (R126). -/
def temperatureDoubt (m : Model) (alarm : Bool) (now base : Option Int) : Nat :=
  match now, base with
  | some t, some tb =>
    if (m.lookup alarm t).value = none ∨ (m.lookup alarm tb).value = none then 200
    else if (t - tb).natAbs ≤ 16 then 1
    else max (m.lookup alarm t).grade (m.lookup alarm tb).grade
  | _, _ => 200

/-- The aging uncertainty E_age (R125). -/
def agingDoubt (m : Model) : Nat := if m.slopeValid = true then (nearest m.slope.natAbs 8).toNat + 32 else 800

/-- The ASSISTED integral after an update with the offset d of a good F1 estimate, or without one (R129). -/
def assistedAfter (s : State) (bias i : Int) (d : Option Int) : Int :=
  match d with
  | none => clampAbs (256 * s.site.val .pullRange) i
  | some d => integralAfter s i (-(nearest ((d - bias) * 256) (2 ^ s.site.nat .f1Bandwidth))) 0

end Sys2Proof.Safety
end

