-- ==== Sys2Proof/Certificates/Slice0/Obligations.lean ====
section
/-! DEFINITION. The statements about the part, for the provers. -/

open Sys2Proof Sys2Proof.Machine Sys2Proof.Safety

/-! ## The queue and hardware reset -/

/-- A step takes the command at the front of the queue and answers its outcome with the queue's rest; on an empty queue the part idles (the
model's own queue: log entries 1 and 3). -/
def Obligations.StepRunsFrontCommand : Prop :=
  (∀ (c : Instr) (rest : List Instr) (s : State), step { s with pending := c :: rest } = exec c { s with pending := rest }) ∧
  ∀ s : State, step { s with pending := [] } = .next { s with pending := [] }

/-- While hardware reset is held, every command but a hardware reset and its release leaves the part as it is; the release sets the time scale
running and starts the first sensor sequence, and changes nothing where reset is not held (R16, R148, R193; log entry 4). -/
def Obligations.HeldUntilReleased : Prop :=
  (∀ (c : Instr) (s : State), s.running = false → isReset c = false → isRelease c = false → exec c s = .next s) ∧
  ∀ s : State, exec .resetRelease s =
    .next (if s.running then s else { s with running := true, ssq := { s.ssq with inProgress := true } })

/-- A hardware reset gives every block its reset values and keeps the waiting commands. The memory device keeps its content, but for a save in
flight: an area whose erase it had begun is left invalid, an area whose erase it had not begun keeps its content, and the save's own area
holds its image where every operation was completed (R16, R189; log entry 35 for a save whose operations were all completed). -/
def Obligations.HardwareResetClears : Prop :=
  ∀ (cause : StartCause) (progress : SaveProgress) (s : State),
    exec (.hardwareReset cause progress) s = .next (State.resetWith cause (s.flashAtReset progress) s.pending) ∧
    ((∀ v, s.stc.store ≠ .saving v) → s.flashAtReset progress = s.flash) ∧
    ∀ v, s.stc.store = .saving v → ∀ a : Area,
      let whole : Prop := v.area = a ∧ v.ops.length ≤ progress.done
      let erased : Prop := ∃ addr ∈ a.sectors, MemOp.erase addr ∈ v.ops.take (progress.done + if progress.begun then 1 else 0)
      (whole → imageIn (s.flashAtReset progress) a = some v.image) ∧
      (¬whole → erased → imageIn (s.flashAtReset progress) a = none) ∧
      (¬whole → ¬erased → imageIn (s.flashAtReset progress) a = imageIn s.flash a)

/-- The read of the SITE area ends: a valid area's record comes into force, otherwise the site-default flag is set; start-frozen in the record
in force sets the frozen flag; the MODEL read begins; nothing else changes, and so the settings change count stays (R184, R188, R193 step 1; log
entry 38 for the previous d of F1, which a record with another nominal frequency leaves as it is). -/
def Obligations.SiteLoadApplies : Prop :=
  ∀ (answered : Bool) (s : State), s.running = true → s.stc.store = .loadingSite →
    ∃ u : State, exec (.siteLoad answered) s = .next u ∧ u.stc.store = .loadingModel ∧
      (match (if answered then s.flash.site.bind (Area.contentOf .site) else none) with
        | none => u.site = s.site ∧ u.sst.siteDefault = true ∧ u.stc.siteFromStore = false
        | some c => u.site = siteOf c ∧ u.sst.siteDefault = s.sst.siteDefault ∧ u.stc.siteFromStore = true) ∧
      u.sst.frozen = (s.sst.frozen || u.site.flag .startFrozen) ∧ u.sst.changeCount = s.sst.changeCount ∧
      u = { s with sst := u.sst, stc := { s.stc with store := u.stc.store, siteFromStore := u.stc.siteFromStore } }

/-- The read of the MODEL area ends and loading ends: the store is IDLE, every record whose inhibit setting is on is INHIBITED, and a valid
area restores the model, the score, the next number and the list. The restored newest record is closed INTERRUPTED with its traceable field
clear where it had no exit cause, and every other record is the restored one. The image that a save of the MODEL area writes is valid, and
what it restores is what the save wrote: the model, the score, the next number, the list with the duration and bound so far of an open record,
the marker and the save time (R43, R94, R137, R188, R193, R196). -/
def Obligations.ModelLoadRestores : Prop :=
  (∀ (t : Nat) (answered : Bool) (s : State), s.running = true → s.stc.store = .loadingModel →
    ∃ u : State, exec (.modelLoad t answered) s = .next u ∧ u.stc.store = .idle ∧
      (∀ r ∈ refs, s.site.flag (.inhibit r) = true → (u.record r).state = .inhibited) ∧
      u.sst = s.sst ∧ u.dlp = s.dlp ∧ u.sdc = s.sdc ∧ u.ssq = s.ssq ∧ u.oc = s.oc ∧ u.flash = s.flash ∧
      match (if answered then s.flash.model.bind (Area.contentOf .model) else none) with
      | none => u.lrn.model = s.lrn.model ∧ u.hop = s.hop ∧ u.stc.modelRestored = s.stc.modelRestored ∧
          u.stc.previousStop = s.stc.previousStop ∧ u.stc.lastSave = s.stc.lastSave
      | some c =>
        u.lrn.model = (restoredOf c).model ∧
        u.hop = { s.hop with
          score := (restoredOf c).score
          nextNumber := (restoredOf c).nextNumber
          episodes := match (restoredOf c).episodes with
            | [] => []
            | e :: es => (if e.exitCause = none then { e with exitCause := some .interrupted, traceable := false } else e) :: es } ∧
        u.stc.modelRestored = true ∧
        u.stc.previousStop = (if (restoredOf c).marker then .clean else .unclean) ∧
        u.stc.lastSave = some ⟨.model, if (restoredOf c).marker then .emergency else .auto, true, (restoredOf c).time⟩) ∧
  ∀ (m : Model) (h : Hop) (marker : Bool) (t : SaveTime), ModelStorable m → EpisodesStorable h →
    let c := modelContent m h marker t
    Area.contentOf .model (Area.image .model c) = some c ∧
    restoredOf c =
      { model := m, score := h.score, nextNumber := h.nextNumber, episodes := episodesSaved h, marker := marker, time := t }

/-- State.reset satisfies every invariant stated below. -/
def Obligations.ResetSound : Prop :=
  TimeRegular State.reset.tsu ∧ EngineTraceable State.reset ∧ QueuesSound State.reset ∧ CodesInRange State.reset.sdc ∧
  ModelSized State.reset ∧ SelectionSound State.reset ∧ EpisodeSound State.reset ∧ SettingsInRange State.reset

/-! ## The time scale -/

/-- A step splits its picosecond part, with the remainder still pending, into whole seconds and a remainder in (−0.5 s, +0.5 s]; the whole
seconds go into the count at once, the remainder is pending unless it is 0 and sets the next interval's length, and the phase and the
interval stay (R7, with R9's remainder still pending). -/
def Obligations.StepSplits : Prop :=
  ∀ (x : Tsu) (q : StepRequest), ∃ w r : Int,
    x.remainder.getD 0 + q.ps = w * 1000000000000 + r ∧ -500000000000 < r ∧ r ≤ 500000000000 ∧
    w = ceiling (x.remainder.getD 0 + q.ps - 500000000000) 1000000000000 ∧
    (x.takeStep q).seconds = x.seconds + BitVec.ofInt 48 (q.whole + w) ∧
    (x.takeStep q).remainder = (if r = 0 then none else some r) ∧
    ((x.takeStep q).nextInterval : Int) = 1000000000000 - r ∧
    (x.takeStep q).phase = x.phase ∧ (x.takeStep q).interval = x.interval

/-- An epoch sets the phase to 0, adds 1 to the count, gives the new interval the pending remainder, and counts down every running timer. It
counts toward the autosave in LOCKED, moves each channel's served marks and carries the F1 gate on; where the label's minute changes, the
temperature-rate gate compares TOSC with the previous minute temperature, and a trip counts and disturbs the open bin. Settings, selection,
engine, DAC and store area contents stay (R3, R5, R8, R26, R97, R99, R162, R191). That a timer, a hold-off or settling whose count reaches 0
stands there until its own event, and that a count of 0 stays 0, is the model's choice (log entry 6). -/
def Obligations.EpochAdvances : Prop :=
  ∀ s : State, s.running = true → ∃ u : State, exec .epoch s = .next u ∧
    u.tsu = { s.tsu with
      seconds := s.tsu.seconds + 1, phase := 0, interval := (1000000000000 - s.tsu.remainder.getD 0).toNat, remainder := none,
      prevLabel := s.tsu.seconds + 1 } ∧
    (∀ k ∈ ports, u.rfe.windows.get k =
      { s.rfe.windows.get k with timer := (s.rfe.windows.get k).timer.map (fun n => n - 1) }) ∧
    (∀ r ∈ refs, u.record r =
      if (s.record r).state = .faulted then { s.record r with holdOff := (s.record r).holdOff - 1 } else s.record r) ∧
    u.dlp = { s.dlp with settling := s.dlp.settling.map (fun n => n - 1) } ∧
    u.rqu.selected = s.rqu.selected ∧ u.sdc = s.sdc ∧ u.ssq = s.ssq ∧ u.sst = s.sst ∧ u.flash = s.flash ∧
    u.hop = { s.hop with epochs := s.hop.epochs + 1 } ∧
    (∀ k ∈ ports, (u.oc.get k).settings = (s.oc.get k).settings ∧ (u.oc.get k).state = (s.oc.get k).state) ∧
    u.rfe.pulses = s.rfe.pulses ∧
    u.rfe.f1 = { s.rfe.f1 with gate := s.rfe.f1.gate.map (fun g => { g with carried := g.carried + s.tsu.interval }) } ∧
    u.stc = { s.stc with
      autosaveCount := if s.dlp.engine.isLocked then min 86400 (s.stc.autosaveCount + 1) else s.stc.autosaveCount } ∧
    (∀ k ∈ ports,
      let c := s.oc.get k
      let c' := u.oc.get k
      c' = { c with openingServed := c.closingServed, closingServed := false, pulseEnd := c'.pulseEnd } ∧
      (c.pulseEnd = none → c'.pulseEnd = none) ∧
      ∀ e, c.pulseEnd = some e → s.tsu.interval ≤ e → c'.pulseEnd = some (e - s.tsu.interval)) ∧
    let minute : Prop := (s.tsu.seconds + 1).toNat / 60 ≠ s.tsu.prevLabel.toNat / 60
    let trips : Bool := match s.lrn.minuteTemp, s.tosc with
      | some t0, some t => decide (s.site.val .tempRateLimit < ((t - t0).natAbs : Int))
      | _, _ => false
    u.lrn = if minute then
        { s.lrn with
          minuteTemp := s.tosc
          openBin := s.lrn.openBin.map (fun o => { o with disturbed := o.disturbed || trips })
          rateTrips := if trips then min 65535 (s.lrn.rateTrips + 1) else s.lrn.rateTrips
          lastTrip := if trips then some (s.tsu.seconds + 1) else s.lrn.lastTrip }
      else s.lrn

/-- At an epoch each channel with time marks on leaves in its port's queue a TIME MARK that announces the new count plus 1, where the queue
holds one already or has room (R168, R176, R177). -/
def Obligations.EpochPlacesTimeMark : Prop :=
  ∀ (s : State) (k : Port), s.running = true → (s.oc.get k).settings.timeMarks = true →
    (0 < noticeCount (s.tp.get k).queue .timeMark ∨ (s.tp.get k).places < 8) →
    ∃ u : State, exec .epoch s = .next u ∧
      ∃ f ∈ (u.tp.get k).queue, f.notice = some .timeMark ∧ f.payload.take 6 = secField (s.tsu.seconds + 2)

/-- Every step keeps the interval, the phase and the pending remainder in their ranges (R1, R7, R8). -/
def Obligations.TimeStaysRegular : Prop :=
  ∀ s u : State, TimeRegular s.tsu → step s = .next u → TimeRegular u.tsu

/-- The traceable flag is false after a hardware reset, a step sets it exactly where its kind is ALIGNMENT, and once set it stays set until the
next hardware reset (R10). -/
def Obligations.TraceableStays : Prop :=
  State.reset.tsu.traceable = false ∧
  (∀ (cause : StartCause) (progress : SaveProgress) (s : State),
    ∃ u : State, exec (.hardwareReset cause progress) s = .next u ∧ u.tsu.traceable = false) ∧
  (∀ (x : Tsu) (q : StepRequest), (x.takeStep q).traceable = (x.traceable || q.alignment)) ∧
  ∀ (c : Instr) (s u : State), isReset c = false → exec c s = .next u → s.tsu.traceable = true → u.tsu.traceable = true

/-- At the end of every loop update the class and B are those that the engine state, the followed reference's kind and the settings give
(R11, R13, R14). -/
def Obligations.ClassAndBoundDerived : Prop :=
  ∀ (order : List UpdatePart) (s : State), s.running = true → ∃ u : State, exec (.loopUpdate order) s = .next u ∧
    u.site = s.site ∧
    match u.dlp.engine with
    | .freerun m => u.tsu.bound = 4294967295 ∧ u.tsu.cls = (if m = .unsteered then 7 else 6)
    | .locked (.pulse _) => u.tsu.bound = s.site.nat (.lockedUncertainty .pulse) ∧ u.tsu.cls = 1
    | .locked (.packet _) => u.tsu.bound = s.site.nat (.lockedUncertainty .packet) ∧ u.tsu.cls = 2
    | .acquiring f => u.tsu.cls = 3 ∧
        u.tsu.bound = max (s.site.nat (.lockedUncertainty f.kind) + if u.dlp.coarse then 8 else 0) ((u.dlp.lastE.natAbs + 999) / 1000)
    | .holdover _ => u.tsu.bound = u.hop.bound ∧ u.tsu.cls = (if (u.hop.bound : Int) ≤ s.site.val .holdoverSpec then 4 else 5)

/-! ## The reference front end -/

/-- A companion record, after bytes other than its start byte, becomes the pending companion with the fields it spells, and its receiver
state and satellites are kept; nothing else changes. A record whose bytes do not sum to 0 or that names no receiver state is discarded. A
record may arrive in pieces: the bytes received so far are held, and a pulse on the input discards them (R18; log entry 28). -/
def Obligations.CompanionRecordTaken : Prop :=
  (∀ (p : PulseIn) (c : Companion) (noise : List Byte) (s : State), s.running = true → c.sats < 64 → -32768 ≤ c.q → c.q ≤ 32767 →
    0xA5#8 ∉ noise → (s.rfe.pulses.get p).receiving = [] →
    let y : PulseInput := { s.rfe.pulses.get p with pending := some c, lastRx := some (c.rx, c.sats) }
    exec (.companionRecord p (List.append noise (companionRecordBytes c))) s =
      .next { s with rfe := { s.rfe with pulses := s.rfe.pulses.set p y } }) ∧
  (∀ (p : PulseIn) (record : List Byte) (s : State), s.running = true → (s.rfe.pulses.get p).receiving = [] → record.length = 12 →
    record.head? = some 0xA5#8 → (record.foldl (· + ·) 0 ≠ 0#8 ∨ 3 < (record.getD 7 0).toNat) →
    exec (.companionRecord p record) s = .next s) ∧
  (∀ (p : PulseIn) (bytes : List Byte) (s : State), s.running = true → (s.rfe.pulses.get p).receiving = [] → bytes.length < 12 →
    bytes.head? = some 0xA5#8 →
    let y : PulseInput := { s.rfe.pulses.get p with receiving := bytes }
    exec (.companionRecord p bytes) s = .next { s with rfe := { s.rfe with pulses := s.rfe.pulses.set p y } }) ∧
  (∀ (p : PulseIn) (a b : List Byte) (s : State), ∃ u : State, exec (.companionRecord p a) s = .next u ∧
    exec (.companionRecord p (List.append a b)) s = exec (.companionRecord p b) u) ∧
  ∀ (p : PulseIn) (t : Nat) (s : State), s.running = true →
    ∃ u : State, exec (.pulseArrival p t) s = .next u ∧ (u.rfe.pulses.get p).receiving = []

/-- A pulse gives its sample at its stamp, rounded down to 250 ps. The second and later ones of a sample interval are EXTRA PULSE. The first
takes the label of the pending companion, or the last label plus 1 in the first two pulses without one, coarse and with q = 0, or else is a
LABEL bad sample. A receiver in NO FIX gives RECEIVER, and a label that disagrees with the reading epoch while traceable gives LABEL. Any
other pulse is measured: e = c + q − x, with x reckoned from the nearer epoch; once delivered, while the store is LOADING too, e joins the
last two estimates of the input, but for one in FAULTED. An INHIBITED record takes no sample (R17, R19 to R23, R25, R40). -/
def Obligations.PulseMeasured : Prop :=
  ∀ (p : PulseIn) (t : Nat) (s : State), Timely s t →
    let r : Ref := .phase (.pulse p)
    let y : PulseInput := { s.rfe.pulses.get p with receiving := [] }
    let φ : Nat := t / 250 * 250
    let near : Prop := 2 * φ ≤ s.tsu.interval
    let reading : Sec := if near then s.tsu.seconds else s.tsu.seconds + 1
    let x : Int := if near then (φ : Int) else (φ : Int) - s.tsu.interval
    let delivered (y' : PulseInput) (c : Cause) : Host.Outcome State Fault Refusal :=
      .next ((withPulse s p t y').sample r (.bad c ⟨s.tsu.seconds, φ⟩))
    ((s.record r).state = .inhibited → ∃ y' : PulseInput, exec (.pulseArrival p t) s = .next (withPulse s p t y') ∧
      y'.seen = true ∧ y'.lastTwo = y.lastTwo) ∧
    ((s.record r).state ≠ .inhibited → y.seen = true → exec (.pulseArrival p t) s = delivered y .extraPulse) ∧
    ((s.record r).state ≠ .inhibited → y.seen = false → y.pending = none → (y.lastLabel = none ∨ 2 ≤ y.unlabelledRun) →
      exec (.pulseArrival p t) s = delivered { y with seen := true, unlabelledRun := min 3 (y.unlabelledRun + 1) } .label) ∧
    ∀ (l : PulseLabel) (y' : PulseInput), (s.record r).state ≠ .inhibited → y.seen = false →
      ((∃ c, y.pending = some c ∧ l = ⟨c.label, c.q, false, c.rx⟩ ∧
          y' = { y with seen := true, pending := none, unlabelledRun := 0 }) ∨
        ∃ b, y.pending = none ∧ y.lastLabel = some b ∧ y.unlabelledRun ≤ 1 ∧
          l = ⟨b + 1, 0, true, (y.lastRx.map (fun z => z.1)).getD .fix⟩ ∧
          y' = { y with seen := true, unlabelledRun := y.unlabelledRun + 1 }) →
      (l.rx = .noFix → exec (.pulseArrival p t) s = delivered y' .receiver) ∧
      (l.rx ≠ .noFix → s.tsu.traceable = true → l.label ≠ reading → exec (.pulseArrival p t) s = delivered y' .label) ∧
      (l.rx ≠ .noFix → (s.tsu.traceable = true → l.label = reading) →
        ∃ u : State, exec (.pulseArrival p t) s = .next u ∧
          let e : Int := s.site.val (.cableDelay p) + l.q - x
          (s.stc.store.isLoading = false → (u.record r).held.map (fun h => h.estimate) = some
            { e := e, time := ⟨s.tsu.seconds, φ⟩, toSec := l.label, fromSec := reading
              coarse := l.coarse, degraded := decide (l.rx = .degraded), before := y.lastTwo.map (fun z => z.1), window := none }) ∧
          ((u.record r).state ≠ .faulted →
            (u.rfe.pulses.get p).lastTwo = ((e, (⟨s.tsu.seconds, φ⟩ : Time)) :: y.lastTwo).take 2) ∧
          ((s.record r).state = .faulted → (u.rfe.pulses.get p).lastTwo = y.lastTwo) ∧
          (u.rfe.pulses.get p).lastLabel = some l.label ∧ (u.rfe.pulses.get p).pending = none ∧
          (u.rfe.pulses.get p).unlabelledRun = y'.unlabelledRun ∧ (u.rfe.pulses.get p).seen = true ∧
          u.tsu = { s.tsu with phase := t } ∧ u.rfe.windows = s.rfe.windows ∧ u.rfe.f1 = s.rfe.f1 ∧ u.dlp = s.dlp ∧ u.hop = s.hop ∧
          u.lrn = s.lrn ∧ u.sdc = s.sdc ∧ u.oc = s.oc ∧ u.sst = s.sst ∧ u.stc = s.stc ∧ u.flash = s.flash)

/-- An F1 edge is stamped as the first or the latest of the gate in progress; nothing else changes. The loop update closes the gate: the sample
it delivers, the previous d and the edges-seen flag follow the edges, the offset d between the first and the last of them at the nominal
period, and the F1 gate setting; no sample is delivered while the record is INHIBITED (R26 to R28). -/
def Obligations.F1EdgeStamped : Prop :=
  (∀ (t : Nat) (s : State), Timely s t →
    let φ : Nat := t / 250 * 250
    let gate : F1Gate := match s.rfe.f1.gate with
      | none => { first := φ, latest := φ, carried := 0, cycles := 0 }
      | some g => { g with latest := g.carried + φ, cycles := g.cycles + 1 }
    exec (.f1Edge t) s = .next { atPhase s t with rfe := { s.rfe with f1 := { s.rfe.f1 with gate := some gate } } }) ∧
  ∀ (order : List UpdatePart) (s : State), s.running = true → ∃ u : State, exec (.loopUpdate order) s = .next u ∧
    let v := s.advanceTo (s.tsu.interval / 2)
    let closed (x : Option Sample) (y : F1Input) : Prop :=
      v.gateSamples.f1 = (if (s.record .f1).state = .inhibited then none else x) ∧ u.rfe.f1 = y
    (s.rfe.f1.gate = none → closed
      (if (s.record .f1).state = .observing ∨ (s.record .f1).state = .qualified then some (.bad .loss v.now) else none)
      ⟨none, none, false⟩) ∧
    ∀ g, s.rfe.f1.gate = some g →
      (g.cycles = 0 → closed (some (.bad .range v.now)) ⟨none, none, true⟩) ∧
      (0 < g.cycles →
        let time : Int := (g.latest : Int) - g.first
        let cycles : Int := g.cycles
        let d : Int :=
          if s.site.val .f1Nominal = 0 then nearest (1000000000000 * (time - cycles * 100000)) (cycles * 100000)
          else if s.site.val .f1Nominal = 1 then nearest (1000000000000 * (time * 4 - cycles * 1953125)) (cycles * 1953125)
          else nearest (1000000000000 * (time * 193 - cycles * 125000000)) (cycles * 125000000)
        if 10000000 < d.natAbs then closed (some (.bad .range v.now)) ⟨none, none, true⟩
        else closed
          (some (if ∃ d0, s.rfe.f1.prevD = some d0 ∧ s.site.val .f1Gate < ((d - d0).natAbs : Int) then .bad .gate v.now
            else .offset d v.now))
          ⟨none, some d, true⟩)

/-- A window's estimate takes a quarter of its reports, rounded up, and none of the others has a lower path delay; of equal delays the earlier
arrivals are taken. Its e is the nearest rounding of the mean offset taken, less 1,000 times the channel's pulse delay, and it carries n, K
and the highest grade taken, with the newest report's second and its acceptance (R36, R82). The highest grade is read as the greatest number
(log entry 13). -/
def Obligations.LowestDelaysTaken : Prop :=
  (∀ xs : List Report, (takenReports xs).length = (xs.length + 3) / 4 ∧
    (∃ others : List Report, xs.Perm (List.append (takenReports xs) others) ∧
      ∀ a ∈ takenReports xs, ∀ b ∈ others, a.delay ≤ b.delay) ∧
    ∀ d : Nat, (takenReports xs).filter (fun x => x.delay == d) <+: xs.filter (fun x => x.delay == d)) ∧
  ∀ (s : State) (k : Port) (xs : List Report) (newest : Report), xs ≠ [] →
    let took := takenReports xs
    let x := s.windowEstimate k xs newest
    x.e = nearest (took.map (fun y => y.offset)).sum ((xs.length + 3) / 4 : Nat) - 1000 * (s.oc.get k).settings.delay ∧
    x.time = ⟨s.tsu.seconds, s.tsu.phase⟩ ∧ x.fromSec = newest.accepted.sec ∧
    x.toSec = (if 500000000 ≤ newest.masterNs then newest.masterSec + 1 else newest.masterSec) ∧
    x.coarse = false ∧ x.degraded = false ∧
    ∃ grade : Nat, x.window = some ⟨xs.length, (xs.length + 3) / 4, grade⟩ ∧ (∀ y ∈ took, y.grade ≤ grade) ∧ ∃ y ∈ took, y.grade = grade

/-- An OFFSET REPORT that passes its checks joins the window, which restarts the stale timer; a master change empties the window first; the
response carries OK and the window count. The report that brings the count to the window threshold closes the window: the estimate of its
reports is delivered, the window is empty, and the response carries the count 0 (R30 to R33, R36). That this response joins the queue behind a
REFERENCE CHANGE notice of the delivered estimate is the model's choice (log entry 19). -/
def Obligations.ReportAppended : Prop :=
  ∀ (k : Port) (t : Nat) (f : OffsetFields) (s : State), Ready s k t → s.stc.store.isLoading = false →
    f.masterNs.toNat < 1000000000 → 1 ≤ f.grade.toNat → f.grade.toNat ≤ 4 → (s.tp.get k).state = .normal →
    (s.oc.get k).state = .active → (s.record (.phase (.packet k))).state ≠ .inhibited →
    (s.tsu.traceable = true → secDiff s.tsu.seconds f.masterSec ≤ 16) →
    (f.flags.getLsbD 0 = true ∨ ∀ x ∈ (s.rfe.windows.get k).reports, x.sequence ≠ f.sequence.toNat) →
    let w := s.rfe.windows.get k
    let kept := if f.flags.getLsbD 0 then [] else w.reports
    let report : Report := { sequence := f.sequence.toNat, masterSec := f.masterSec, masterNs := f.masterNs.toNat,
                             offset := f.offset.toInt, delay := f.delay.toNat, grade := f.grade.toNat, accepted := ⟨s.tsu.seconds, t⟩ }
    let window (reports : List Report) : Window :=
      { reports := reports, timer := some (s.site.nat (.stalePeriod k)), lastAccepted := some ⟨s.tsu.seconds, t⟩ }
    let all := List.append kept [report]
    (all.length ≠ s.site.nat (.windowThreshold k) → all.length < 256 →
      exec (.offsetReport k t f) s = .next (withWindow (answered s k t 0x06 [0, byte all.length]) k (window all))) ∧
    (all.length = s.site.nat (.windowThreshold k) →
      exec (.offsetReport k t f) s = .next (((withWindow (atDispatch s k t) k (window [])).sample (.phase (.packet k))
        (.phase ((atPhase s t).windowEstimate k all report))).respond k 0x06 [0, 0]))

/-- A refused OFFSET REPORT changes nothing but its port: the response carries the first result that applies, MALFORMED by R29 or one of R30,
and the window count. That MALFORMED comes before SUSPECT, QUIET and the rest is the model's choice (log entry 14). -/
def Obligations.ReportRefused : Prop :=
  ∀ (k : Port) (t : Nat) (f : OffsetFields) (s : State), Ready s k t → s.stc.store.isLoading = false →
    ∀ r : ResultCode, r =
      (if 1000000000 ≤ f.masterNs.toNat ∨ f.grade.toNat = 0 ∨ 4 < f.grade.toNat then .malformed
      else if (s.tp.get k).state = .suspect then .suspect
      else if (s.oc.get k).state ≠ .active then .quiet
      else if (s.record (.phase (.packet k))).state = .inhibited then .inhibited
      else if s.tsu.traceable = true ∧ 16 < secDiff s.tsu.seconds f.masterSec then .tooOld
      else if f.flags.getLsbD 0 = false ∧ ∃ x ∈ (s.rfe.windows.get k).reports, x.sequence = f.sequence.toNat then .duplicate
      else .ok) → r ≠ .ok →
    exec (.offsetReport k t f) s =
      .next (answered s k t 0x06 (List.append (u1 r.code) (u1 (s.rfe.windows.get k).reports.length)))

/-- The expiry of a stale timer empties the window, restarts the timer with the stale period and delivers one sample: the estimate of the
reports where the window holds 4 or more, THIN WINDOW where it holds 1 to 3, STALE where it holds none; the time scale, the engine, the
channels and the other windows stay (R33, R34, R36). -/
def Obligations.StaleExpiryRestarts : Prop :=
  ∀ (k : Port) (s : State), s.running = true → (s.rfe.windows.get k).timer = some 0 →
    let w := s.rfe.windows.get k
    let w' : Window := { w with reports := [], timer := some (s.site.nat (.stalePeriod k)) }
    let delivered (x : Sample) : Host.Outcome State Fault Refusal := .next ((withWindow s k w').sample (.phase (.packet k)) x)
    (4 ≤ w.reports.length → ∀ newest, w.reports.getLast? = some newest →
      exec (.staleTimerExpiry k) s = delivered (.phase (s.windowEstimate k w.reports newest))) ∧
    (1 ≤ w.reports.length → w.reports.length ≤ 3 → exec (.staleTimerExpiry k) s = delivered (.bad .thinWindow s.now)) ∧
    (w.reports = [] → exec (.staleTimerExpiry k) s = delivered (.bad .stale s.now)) ∧
    ∃ u : State, exec (.staleTimerExpiry k) s = .next u ∧ u.rfe.windows = s.rfe.windows.set k w' ∧
      u.rfe.f1 = s.rfe.f1 ∧ u.tsu = s.tsu ∧ u.dlp = s.dlp ∧ u.hop = s.hop ∧ u.lrn = s.lrn ∧ u.sdc = s.sdc ∧ u.oc = s.oc ∧
      u.sst = s.sst ∧ u.stc = s.stc ∧ u.flash = s.flash

/-! ## The reference qualifier -/

/-- The expiry of a hold-off takes a FAULTED record to OBSERVING with the cause HOLD-OFF END where its input is present (a pulse seen in this
interval or the one before, edges seen, a report no older than the stale period) and to ABSENT with NO INPUT where it is not, which stops a
packet's stale timer; its counts are 0, the trail takes the entry, and the change count rises; no other record changes. The expiry of
settling clears a count that has reached 0; one that is not due changes nothing (log entries 5 and 6). A record in OBSERVING or QUALIFIED
counts samples: a good one toward QUALIFIED, a bad one toward FAULTED, which sets the hold-off from the trail and clears the record's pairs;
in any other state it counts none. Of an ABSENT record the first sample makes an OBSERVING one. A comparison moves the pair's runs, and in
dispute it outvotes one member, marks by the selection, or ends the dispute (log entries 16, 39, 40; a DISAGREE sample leaves the estimate held
as it was, log entry 49) (R33, R47 to R51, R56 to R62, R67, R84). -/
def Obligations.CountdownsExpire : Prop :=
  (∀ (r : Ref) (s : State), s.running = true → (s.record r).state = .faulted → (s.record r).holdOff = 0 →
    ∃ u : State, exec (.holdOffExpiry r) s = .next u ∧
      (let present : Bool := match r with
         | .phase (.pulse p) => (s.rfe.pulses.get p).seen || (s.rfe.pulses.get p).prevSeen
         | .f1 => s.rfe.f1.edgesSeen
         | .phase (.packet k) => match (s.rfe.windows.get k).lastAccepted with
           | none => false
           | some t => decide (secDiff s.tsu.seconds t.sec ≤ (s.site.nat (.stalePeriod k) : Int))
       let y := s.record r
       let left : RefState := if present then .observing else .absent
       let cause : Cause := if present then .holdOffEnd else .noInput
       u.record r = { y with
         state := left, trail := enterTrail s.tsu.seconds left cause y.trail, faultCount := 0, goodRun := 0, holdOff := 0
         history := if present then y.history else [] } ∧
       (∀ k ∈ ports, u.rfe.windows.get k =
         if r = .phase (.packet k) ∧ present = false then { s.rfe.windows.get k with timer := none } else s.rfe.windows.get k) ∧
       (∀ p, u.rfe.pulses.get p =
         if r = .phase (.pulse p) ∧ present = false then { s.rfe.pulses.get p with lastTwo := [] } else s.rfe.pulses.get p) ∧
       u.rfe.f1 = s.rfe.f1) ∧
      (∀ r' ∈ refs, r' ≠ r → u.record r' = s.record r') ∧
      u.rqu.changeCount = (s.rqu.changeCount + 1) % 65536 ∧ u.tsu = s.tsu ∧ u.dlp = s.dlp ∧ u.hop = s.hop ∧ u.lrn = s.lrn ∧
      u.sdc = s.sdc ∧ u.ssq = s.ssq ∧ u.oc = s.oc ∧ u.sst = s.sst ∧ u.stc = s.stc ∧ u.flash = s.flash) ∧
  (∀ s : State, s.running = true → exec .settlingExpiry s =
    .next { s with dlp := { s.dlp with settling := if s.dlp.settling = some 0 then none else s.dlp.settling } }) ∧
  -- counting and transitions
  (∀ (w : Work) (r : Ref) (c : Cause),
    let y := w.st.record r
    let now := w.st.tsu.seconds
    let counts : Prop := y.state = .observing ∨ y.state = .qualified
    let limit : Nat := w.st.site.nat (.faultLimit r.kind)
    let bad := w.countBad r c
    let good := w.countGood r
    (¬counts → bad = w ∧ good = w) ∧
    (counts → y.faultCount + 1 < limit →
      bad.st = w.st.onRecord r (fun y => { y with goodRun := 0, faultCount := y.faultCount + 1 })) ∧
    (counts → limit ≤ y.faultCount + 1 →
      let z := bad.st.record r
      z.state = .faulted ∧ z.faultCount = limit ∧ z.goodRun = 0 ∧ z.trail = enterTrail now .faulted c y.trail ∧
      (∀ e ∈ z.trail.head?, z.currentHoldOff = w.st.site.nat .holdOffBase * 2 ^ min (e.repeats - 1) 4) ∧
      z.holdOff = z.currentHoldOff ∧ z.history = [] ∧ z.lastEstimate = y.lastEstimate ∧
      ∀ a, r = .phase a → ∀ q ∈ bad.st.rqu.pairs, q.a ≠ q.b → (q.a = a ∨ q.b = a) →
        q.disagreeRun = 0 ∧ q.agreeRun = 0 ∧ q.inDispute = false) ∧
    (counts →
      let run : Nat := min 65535 (y.goodRun + 1)
      let qualifies : Prop := y.state = .observing ∧ w.st.site.nat (.qualifyLength r.kind) ≤ run
      good.st = w.st.onRecord r (fun y => { y with
        faultCount := 0
        goodRun := run
        state := if qualifies then .qualified else y.state
        trail := if qualifies then enterTrail now .qualified .goodRun y.trail else y.trail })) ∧
    (w.firstSample r).st = (if y.state = .absent then
      w.st.onRecord r (fun y => { y with state := .observing, trail := enterTrail now .observing .firstSample y.trail }) else w.st)) ∧
  -- trails
  (∀ (now : Sec) (x : RefState) (c : Cause) (trail : List TrailEntry),
    let merges (y : TrailEntry) : Prop := y.cause = c ∧ 0 ≤ secDiff now y.last ∧ secDiff now y.last ≤ 3600
    let same (y : TrailEntry) : Bool := y.state == x
    (∀ y, trail.find? same = some y → merges y →
      enterTrail now x c trail = { y with last := now, repeats := min 255 (y.repeats + 1) } :: trail.eraseP same) ∧
    ((∀ y, trail.find? same = some y → ¬merges y) →
      enterTrail now x c trail = (⟨x, c, now, now, 1⟩ :: trail).take 8)) ∧
  -- comparisons
  ∀ (w : Work) (at_ : Sec) (a b : PhaseRef) (ea eb : Int) (p : PairEntry), a ≠ b → w.st.recent at_ b = some eb →
    ((w.st.record (.phase a)).state = .observing ∨ (w.st.record (.phase a)).state = .qualified) →
    w.st.rqu.pairs.find? (fun q => q.joins a b) = some p →
    let u := (w.compareWith at_ a ea b).st
    let partner (s : State) (c : PhaseRef) := (s.record (.phase c)).partner
    let unmarked (c d : PhaseRef) : Option PhaseRef := if partner w.st c = some d then none else partner w.st c
    let marked (c d : PhaseRef) : Option PhaseRef := if partner w.st c = none then some d else partner w.st c
    let apart (x y : Int) : Prop := 1000 * w.st.site.val .disagreementLimit < ((x - y).natAbs : Int)
    let p' : PairEntry := if apart ea eb
      then { p with agreeRun := 0, disagreeRun := min 3 (p.disagreeRun + 1), inDispute := p.inDispute || decide (2 ≤ p.disagreeRun) }
      else { p with disagreeRun := 0, agreeRun := if p.inDispute then min 3 (p.agreeRun + 1) else p.agreeRun }
    (p'.inDispute = false → u.pair a b = p' ∧ ∀ r ∈ refs, u.record r = w.st.record r) ∧
    (p'.inDispute = true → p'.agreeRun = 3 →
      u.pair a b = { p' with disagreeRun := 0, agreeRun := 0, inDispute := false } ∧
      partner u a = unmarked a b ∧ partner u b = unmarked b a) ∧
    (p'.inDispute = true → p'.agreeRun ≠ 3 →
      (∀ out, w.st.outvoted at_ a b ea eb = some out →
        partner u a ≠ some b ∧ partner u b ≠ some a ∧
        ((u.record (.phase out)).state = .faulted ∨
          (u.record (.phase out)).faultCount = (w.st.record (.phase out)).faultCount + 1)) ∧
      (w.st.outvoted at_ a b ea eb = none → u.pair a b = p' ∧
        (w.st.rqu.selected = some a → partner u b = marked b a ∧ partner u a = unmarked a b) ∧
        (w.st.rqu.selected = some b → partner u a = marked a b ∧ partner u b = unmarked b a) ∧
        (w.st.rqu.selected ≠ some a → w.st.rqu.selected ≠ some b → partner u a = marked a b ∧ partner u b = marked b a))) ∧
    let undecided (c : PhaseRef) : Prop :=
      c ≠ a → c ≠ b → ∀ ec, w.st.recent at_ c = some ec → (apart ec ea ↔ apart ec eb)
    match w.st.outvoted at_ a b ea eb with
    | none => ∀ c ∈ phaseRefs, undecided c
    | some out => ∃ (before after : List PhaseRef) (c : PhaseRef) (ec : Int), phaseRefs = List.append before (c :: after) ∧
        (∀ d ∈ before, undecided d) ∧ c ≠ a ∧ c ≠ b ∧ w.st.recent at_ c = some ec ∧
        ((¬apart ec ea ∧ apart ec eb ∧ out = b) ∨ (apart ec ea ∧ ¬apart ec eb ∧ out = a))

/-- Every step keeps the selected reference QUALIFIED, not disputed and of priority 1 to 14 (R63). -/
def Obligations.SelectionStaysSound : Prop :=
  ∀ s u : State, SelectionSound s → step s = .next u → SelectionSound u

/-! ## The discipline loop -/

/-- Every step keeps the engine in FREERUN exactly while the time scale is untraceable (R70). -/
def Obligations.EngineStaysTraceable : Prop :=
  ∀ s u : State, EngineTraceable s → step s = .next u → EngineTraceable u

/-- Every f_out that a loop update hands on lies within ± the pull range, and the DAC takes it: the target code is the centre code plus, or
minus, the nearest rounding of f_out × gain / 65,536, limited to the code range, and the at-limit flag is set with the sign of f_out exactly
where the limit cut it; nothing else of the DAC changes (R92, R142). -/
def Obligations.OutputWithinPullRange : Prop :=
  ∀ (order : List UpdatePart) (s : State), s.running = true → SettingsInRange s →
    ∃ u : State, exec (.loopUpdate order) s = .next u ∧ (u.dlp.fOut.natAbs : Int) ≤ s.site.val .pullRange ∧
      let q := nearest (u.dlp.fOut * s.site.val .gain) 65536
      let target := if s.site.val .steerPolarity = 0 then s.site.val .centre + q else s.site.val .centre - q
      u.sdc = { s.sdc with
        target := (max 0 (min 1048575 target)).toNat
        atLimit := if 0 ≤ target ∧ target ≤ 1048575 then .clear else if 0 < u.dlp.fOut then .plus else .minus }

/-- An update in LOCKED or ACQUIRING that uses an estimate, and does not step it, computes P, the increment, I and f_out by the site's exponent
in LOCKED and by max(3, n − 2) in ACQUIRING. In LOCKED an estimate beyond four lock thresholds adds to the unlock run, and the fourth leads to
ACQUIRING; any other clears the run. In ACQUIRING an estimate within the lock threshold adds to the lock run, which leads to LOCKED at the
lock count; any other clears it. The first estimate of a newly selected reference makes it the followed one: within its lock threshold the
engine state is kept, beyond it the engine is ACQUIRING (R72 to R75, R83, R85 to R87; log entry 32 for a lock run that a switch leaves,
log entry 52 for the increment of I at the update of a switch or an unlock). -/
def Obligations.LockedUpdateArithmetic : Prop :=
  ∀ (order : List UpdatePart) (s : State) (f r : PhaseRef) (x : PhaseEstimate), s.running = true →
    Usable (atLoop order s) r x → ¬((s.dlp.firstEstimate = true ∨ r ≠ f) ∧ StepsOut s x) →
    let n := s.site.nat (.bandwidth r.kind)
    let threshold : Nat := 1000 * s.site.nat (.lockThreshold r.kind)
    let locked (lockRun unlockRun : Nat) : Dlp :=
      { estimateUsed s s.dlp n (intervalOf s.dlp r.kind) x with engine := .locked r, lockRun := lockRun, unlockRun := unlockRun }
    let acquiring (lockRun unlockRun : Nat) : Dlp :=
      { estimateUsed s s.dlp (max 3 (n - 2)) (intervalOf s.dlp r.kind) x with
        engine := .acquiring r, lockRun := lockRun, unlockRun := unlockRun }
    let run := if x.e.natAbs ≤ threshold then min 65535 (s.dlp.lockRun + 1) else 0
    (s.dlp.engine = .locked f → ∃ u : State, exec (.loopUpdate order) s = .next u ∧
      u.dlp =
        (if r ≠ f then (if x.e.natAbs ≤ threshold then locked s.dlp.lockRun 0 else acquiring 0 0)
        else if x.e.natAbs ≤ 4 * threshold then locked s.dlp.lockRun 0
        else if s.dlp.unlockRun + 1 < 4 then locked s.dlp.lockRun (s.dlp.unlockRun + 1)
        else acquiring 0 0)) ∧
    (s.dlp.engine = .acquiring f → ∃ u : State, exec (.loopUpdate order) s = .next u ∧
      u.dlp =
        (if r ≠ f then acquiring (if x.e.natAbs ≤ threshold then 1 else 0) 0
        else if s.site.nat (.lockCount r.kind) ≤ run then locked 0 0
        else acquiring run s.dlp.unlockRun))

/-- An update in ACQUIRING or LOCKED that uses no estimate holds the terms, clamped to the limits in force, and counts itself. One in FREERUN
runs the sub-mode that F1 and the drift history give: UNSTEERED gives 0; MODEL gives the newest bin's frequency with the temperature term; in
FREQUENCY the integral moves by F1's offset (R72, R76 to R79). -/
def Obligations.TermsHeldWithoutEstimate : Prop :=
  (∀ (order : List UpdatePart) (s : State) (f r : PhaseRef), s.running = true →
    (s.dlp.engine = .locked f ∨ s.dlp.engine = .acquiring f) → (atLoop order s).rqu.selected = some r → NoneUsable (atLoop order s) →
    ∃ u : State, exec (.loopUpdate order) s = .next u ∧
      let p := clampAbs (s.site.val .slewLimit) s.dlp.prop
      let i := clampAbs (256 * s.site.val .pullRange) s.dlp.integral
      u.dlp = { s.dlp with
        integral := i, prop := p, fOut := clampAbs (s.site.val .pullRange) (nearest i 256 + p),
        sinceEstimate := min 64 (s.dlp.sinceEstimate + 1) }) ∧
  ∀ (order : List UpdatePart) (s : State) (m : FreeMode), s.running = true → s.dlp.engine = .freerun m → NoneUsable (atLoop order s) →
    ∃ u : State, exec (.loopUpdate order) s = .next u ∧
      let pull := s.site.val .pullRange
      let free (mode : FreeMode) (i f : Int) : Dlp :=
        { s.dlp with
          engine := .freerun mode, integral := i, prop := 0, fOut := f, sinceEstimate := min 64 (s.dlp.sinceEstimate + 1) }
      if ((atLoop order s).record .f1).state = .qualified then
        let i := assistedAfter s 0 s.dlp.integral (gateOffset s)
        u.dlp = free .frequency i (clampAbs pull (nearest i 256))
      else match s.lrn.model.history.getLast? with
        | none => u.dlp = free .unsteered 0 0
        | some b =>
          let f := clampAbs pull (nearest b.mean 16 + temperatureOf s.lrn.model s.toscAlarm s.tosc (some b.temp))
          u.dlp = free .model (256 * f) f

/-- The update that first uses an estimate in FREERUN aligns the time scale: the count takes the whole seconds, the flag is set, the engine
follows the reference in ACQUIRING with e taken as 0, and the class is 3. An update in LOCKED or ACQUIRING that uses the first estimate of a
newly followed reference, beyond the step limit and with steps permitted, takes an ORDINARY step of it: e is taken as 0 and the engine is
ACQUIRING. Either sets settling, with 2 where a remainder is pending and else with 1 (R7, R10, R11, R80 to R84; log entry 21 for the
coarse mark of a stepped estimate, log entry 31 for the clamp of its terms). -/
def Obligations.AlignmentTakesTime : Prop :=
  (∀ (order : List UpdatePart) (s : State) (m : FreeMode) (r : PhaseRef) (x : PhaseEstimate), s.running = true →
    s.dlp.engine = .freerun m → Usable (atLoop order s) r x → (s.dlp.fOut.natAbs : Int) ≤ s.site.val .pullRange →
    ∃ u : State, exec (.loopUpdate order) s = .next u ∧ StepTaken s u (secDiff x.toSec x.fromSec) x.e ∧
      u.tsu.traceable = true ∧ u.tsu.cls = 3 ∧
      u.tsu.bound = s.site.nat (.lockedUncertainty r.kind) + (if x.coarse then 8 else 0) ∧
      u.dlp = { s.dlp with
        engine := .acquiring r, integral := 256 * s.dlp.fOut, prop := 0, fOut := s.dlp.fOut, lastE := 0, coarse := x.coarse,
        sinceEstimate := 0, lockRun := 0, unlockRun := 0, firstEstimate := false, settling := u.dlp.settling }) ∧
  ∀ (order : List UpdatePart) (s : State) (f r : PhaseRef) (x : PhaseEstimate), s.running = true →
    (s.dlp.engine = .locked f ∨ s.dlp.engine = .acquiring f) → Usable (atLoop order s) r x →
    (s.dlp.firstEstimate = true ∨ r ≠ f) → StepsOut s x →
    ∃ u : State, exec (.loopUpdate order) s = .next u ∧ StepTaken s u 0 x.e ∧ u.tsu.traceable = s.tsu.traceable ∧ u.tsu.cls = 3 ∧
      u.tsu.bound = s.site.nat (.lockedUncertainty r.kind) + (if x.coarse then 8 else 0) ∧
      u.dlp = { estimateStepped s s.dlp r x with settling := u.dlp.settling }

/-- The update that finds no reference selected in LOCKED or ACQUIRING enters HOLDOVER, with the sub-mode that F1 gives: an episode opens with
its uncertainty from the state left, B is the bound that uncertainty and score give, and f_out is the base's frequency with aging and
temperature, or the integral that F1 steers. A later update in HOLDOVER that uses no estimate goes on in the sub-mode that F1 gives, re-taking
the base or the integral where the sub-mode changes, and adds its increment to the uncertainty. Each of them clamps the loop's integral to the
pull range in force, the entry before it hands it over (R88, R90, R93, R118 to R132, R134; log entry 31 for the clamp at the entry, of the loop's
integral before the handing over and of the Predictor's). -/
def Obligations.HoldoverEntered : Prop :=
  (∀ (order : List UpdatePart) (s : State) (f : PhaseRef), s.running = true →
    (s.dlp.engine = .locked f ∨ s.dlp.engine = .acquiring f) → (atLoop order s).rqu.selected = none →
    ∃ u : State, exec (.loopUpdate order) s = .next u ∧
      let pull := s.site.val .pullRange
      let mode : HoldMode := if ((atLoop order s).record .f1).state = .qualified then .assisted else .predicted
      let base := (u.hop.baseSource, u.hop.f0, u.hop.baseTime, u.hop.baseTemp, u.hop.eBase)
      u.dlp.engine = .holdover mode ∧
      u.dlp.integral = clampAbs (256 * pull) s.dlp.integral ∧
      u.dlp.prop = 0 ∧ u.dlp.lockRun = 0 ∧ u.dlp.unlockRun = 0 ∧ u.dlp.settling = none ∧ u.dlp.firstEstimate = false ∧
      u.hop.isOpen = true ∧ u.hop.time = 0 ∧ u.hop.scoreInUse = s.hop.score ∧ u.hop.score = s.hop.score ∧
      u.hop.modelCleared = false ∧
      u.hop.nextNumber = (if s.hop.nextNumber < 65535 then s.hop.nextNumber + 1 else 1) ∧
      u.hop.uncertainty = min 16000000000000
        (if s.dlp.engine = .locked f then 16 * (1000 * s.site.nat (.lockedUncertainty f.kind))
         else 16 * (s.dlp.lastE.natAbs + 1000 * s.site.nat (.lockThreshold f.kind))) ∧
      u.tsu.bound = (u.hop.uncertainty * s.hop.score + 255999) / 256000 ∧
      (∃ e, u.hop.episodes = (e :: s.hop.episodes).take 16 ∧ e.number = s.hop.nextNumber ∧ e.start = s.tsu.seconds ∧
        e.traceable = true ∧ e.entryMode = mode ∧ e.modelCleared = false ∧ e.duration = none ∧ e.boundAtExit = none ∧
        e.exitCause = none ∧ e.e1 = none ∧ e.scoreBefore = s.hop.score ∧ e.scoreAfter = none) ∧
      match mode with
      | .predicted =>
        let live := (BaseSource.live, nearest u.dlp.integral 256, s.tsu.seconds, s.tosc, 16)
        base = (match u.lrn.model.history.getLast? with
          | none => live
          | some b =>
            if b.disturbed = false ∧ 0 ≤ secDiff s.tsu.seconds b.finish ∧ secDiff s.tsu.seconds b.finish ≤ 3600 then
              (BaseSource.bin, nearest b.mean 16, b.centre, some b.temp, max 2 ((b.spread + 3) / 4))
            else live) ∧
        u.hop.integral = clampAbs (256 * pull) s.hop.integral ∧
        u.dlp.fOut = clampAbs pull (u.hop.f0 + agingOf u.lrn.model s.tsu.seconds u.hop.baseTime +
          temperatureOf u.lrn.model s.toscAlarm s.tosc u.hop.baseTemp)
      | .assisted =>
        u.hop.baseSource = .none ∧ u.hop.integral = assistedAfter s u.lrn.model.f1Bias u.dlp.integral (gateOffset s) ∧
        u.dlp.fOut = clampAbs pull (nearest u.hop.integral 256)) ∧
  ∀ (order : List UpdatePart) (s : State) (m : HoldMode), s.running = true → s.dlp.engine = .holdover m → NoneUsable (atLoop order s) →
    ∃ u : State, exec (.loopUpdate order) s = .next u ∧
      let pull := s.site.val .pullRange
      let mode : HoldMode := if ((atLoop order s).record .f1).state = .qualified then .assisted else .predicted
      let retaken : Hop := { s.hop with
        baseSource := .live, f0 := s.dlp.fOut, baseTime := s.tsu.seconds, baseTemp := s.tosc,
        eBase := max 2 (s.site.nat .f1Uncertainty) }
      let base : Hop := if m = .assisted ∧ mode = .predicted then retaken else s.hop
      let time := min (s.hop.time + s.hop.epochs) 4294967295
      let doubt := temperatureDoubt s.lrn.model s.toscAlarm s.tosc base.baseTemp
      let integral := match mode with
        | .predicted => clampAbs (256 * pull) s.hop.integral
        | .assisted => assistedAfter s s.lrn.model.f1Bias (if m = .predicted then 256 * s.dlp.fOut else s.hop.integral) (gateOffset s)
      let increment : Nat := match mode with
        | .predicted => 16 * base.eBase + 16 * doubt + (nearest (agingDoubt s.lrn.model * time : Nat) 86400).toNat
        | .assisted => 16 * s.site.nat .f1Uncertainty
      let uncertainty := min (s.hop.uncertainty + increment) 16000000000000
      (s.lrn.openBin = none → u.lrn.model = s.lrn.model) ∧
      u.dlp = { s.dlp with
        engine := .holdover mode, integral := clampAbs (256 * pull) s.dlp.integral, prop := 0, lockRun := 0, unlockRun := 0
        sinceEstimate := min 64 (s.dlp.sinceEstimate + 1)
        fOut := match mode with
          | .predicted => clampAbs pull (base.f0 + agingOf s.lrn.model s.tsu.seconds base.baseTime +
              temperatureOf s.lrn.model s.toscAlarm s.tosc base.baseTemp)
          | .assisted => clampAbs pull (nearest integral 256) } ∧
      u.hop = { base with
        time := time, integral := integral, uncertainty := uncertainty, terms := u.hop.terms, epochs := 0
        bound := (uncertainty * s.hop.scoreInUse + 255999) / 256000 } ∧
      u.hop.terms.u16 = increment

/-- The update that uses an estimate in HOLDOVER closes the episode REACQUIRED with the duration and bound of the update before, and leaves
the engine ACQUIRING the selected reference, from the integral 256 times the previous f_out: the estimate is used with the acquisition
exponent and an interval of 1 and tested toward lock, or stepped where it is beyond the step limit and steps are permitted (R83, R91, R135; log
entry 21 for the coarse mark of a stepped estimate, log entry 31 for the clamp of its terms, log entry 32 for the lock run where e1 is used). -/
def Obligations.HoldoverLeft : Prop :=
  ∀ (order : List UpdatePart) (s : State) (m : HoldMode) (r : PhaseRef) (x : PhaseEstimate) (e : Episode) (es : List Episode),
    s.running = true → s.dlp.engine = .holdover m → Usable (atLoop order s) r x → s.hop.episodes = e :: es →
    ∃ u : State, exec (.loopUpdate order) s = .next u ∧ u.dlp.engine = .acquiring r ∧ u.hop.isOpen = false ∧
      u.hop.uncertainty = s.hop.uncertainty ∧ u.hop.score = s.hop.scoreAfter x.e ∧
      u.hop.episodes = { e with
        exitCause := some .reacquired, duration := some s.hop.time, boundAtExit := some s.hop.bound, e1 := some x.e,
        scoreAfter := some (s.hop.scoreAfter x.e) } :: es ∧
      let d : Dlp := { s.dlp with integral := 256 * s.dlp.fOut }
      let n := max 3 (s.site.nat (.bandwidth r.kind) - 2)
      (StepsOut s x → StepTaken s u 0 x.e ∧ u.dlp = { estimateStepped s d r x with settling := u.dlp.settling }) ∧
      (¬StepsOut s x → u.dlp = { estimateUsed s d n 1 x with
        engine := .acquiring r, unlockRun := 0
        lockRun := if x.e.natAbs ≤ 1000 * s.site.nat (.lockThreshold r.kind) then 1 else 0 })

/-! ## Holdover -/

/-- At the close of an episode of 600 s or more whose model was not cleared the score goes up by 8 to 64 at most where |e1| exceeds b, down by
1 to 16 at least where it lies below a quarter of b, else to the score in use; in any other case it stays; the record takes it (R136). -/
def Obligations.ScoreAfterEpisode : Prop :=
  ∀ (order : List UpdatePart) (s : State) (m : HoldMode) (r : PhaseRef) (x : PhaseEstimate) (e : Episode) (es : List Episode),
    s.running = true → s.dlp.engine = .holdover m → Usable (atLoop order s) r x → s.hop.episodes = e :: es →
    ∃ u : State, exec (.loopUpdate order) s = .next u ∧
      u.hop.episodes.head?.bind (fun y => y.scoreAfter) = some u.hop.score ∧
      let b : ℚ := (s.hop.uncertainty : ℚ) * s.hop.scoreInUse / 256
      if 600 ≤ s.hop.time ∧ s.hop.modelCleared = false then
        (b < |(x.e : ℚ)| → u.hop.score = min 64 (s.hop.scoreInUse + 8)) ∧
        (¬b < |(x.e : ℚ)| → 4 * |(x.e : ℚ)| < b → u.hop.score = max 16 (s.hop.scoreInUse - 1)) ∧
        (¬b < |(x.e : ℚ)| → ¬4 * |(x.e : ℚ)| < b → u.hop.score = s.hop.scoreInUse)
      else u.hop.score = s.hop.score

/-- Every step keeps an episode open exactly in HOLDOVER, its uncertainty within one second of phase, and its bound the one that R128 gives
(R116, R127, R128, R138). -/
def Obligations.EpisodeStaysSound : Prop :=
  ∀ s u : State, EpisodeSound s → step s = .next u → EpisodeSound u

/-- Within one holdover episode neither U16 nor the bound decreases, and the score in use stays (R118, R127, R128). -/
def Obligations.BoundNeverDecreases : Prop :=
  ∀ s u : State, EpisodeSound s → step s = .next u → s.hop.isOpen = true → u.hop.isOpen = true →
    s.hop.uncertainty ≤ u.hop.uncertainty ∧ u.hop.scoreInUse = s.hop.scoreInUse ∧ s.hop.bound ≤ u.hop.bound

/-! ## Learning, steering and sensors -/

/-- A kept bin is appended as the newest; the newest bins that it does not follow are removed, and the oldest beyond 96 are dropped. An
undisturbed one is then the anchor where none is held, or else moves its table entry toward its residual; then the slope is fitted to the
undisturbed bins whose lookup does not fail. A lookup interpolates between two entries, or takes one that stands alone, or the nearest of the
entries about it, and fails while the TOSC alarm stands; its grade says which. A loop update that ends in LOCKED adds its integral and TOSC to
the open bin, with the circumstances that disturb it, closes it at 900 samples, and moves the F1 bias by the d of an available F1; any other
closes the open bin; a bin closed is kept with 300 samples or more and discarded with fewer (R98 to R109; log entry 11 for two groups of fit
bins without a span, which the slope's equation leaves out). -/
def Obligations.BinAppended : Prop :=
  (∀ (history : List Bin) (b : Bin),
    ∃ old removed kept : List Bin, history = List.append old removed ∧ (∀ x ∈ removed, secDiff b.start x.finish ≤ 0) ∧
      (∀ x ∈ old.getLast?, 0 < secDiff b.start x.finish) ∧ appendBin history b = List.append kept [b] ∧
      kept = old.drop (old.length - 95)) ∧
  -- the table and the anchor
  (∀ (m : Model) (alarm : Bool) (b : Bin), ∃ taught : Model, m.learn alarm b = taught.fitSlope alarm ∧
    let freq := nearest b.mean 16
    let j := (max 0 (min 63 ((b.temp + 640) / 32))).toNat
    let old := m.table.getD j ⟨0, 0⟩
    (b.disturbed = true → taught = m) ∧
    (b.disturbed = false → m.anchor = none →
      taught = { m with anchor := some ⟨b.centre, freq⟩, table := m.table.set j ⟨0, 1⟩ }) ∧
    (b.disturbed = false → ∀ a, m.anchor = some a →
      let r := freq - (a.freq + nearest (m.slope * secDiff b.centre a.time) 1382400)
      let v := if old.w = 0 then r else old.v + nearest (r - old.v) (min (old.w + 1) 16 : Nat)
      taught = { m with table := m.table.set j ⟨clampAbs 2000000 v, min 255 (old.w + 1)⟩ })) ∧
  -- the slope
  (∀ (m : Model) (alarm : Bool),
    let fits := m.history.filter (fun b => !b.disturbed && (m.lookup alarm b.temp).value.isSome)
    let origin : Sec := (fits.head?.map (fun b => b.centre)).getD 0
    let newest : Sec := (fits.getLast?.map (fun b => b.centre)).getD 0
    let y (b : Bin) : Int := nearest b.mean 16 - (m.lookup alarm b.temp).value.getD 0
    let first := fits.take 16
    let last := fits.drop (fits.length - 16)
    let rise : Int := (last.map y).sum - (first.map y).sum
    let span : Int := (last.map (fun b => secDiff b.centre origin)).sum - (first.map (fun b => secDiff b.centre origin)).sum
    (48 ≤ fits.length → 43200 ≤ secDiff newest origin → 0 < span →
      m.fitSlope alarm = { m with
        slope := clampAbs 320000 (m.slope + nearest (nearest (1382400 * rise) span - m.slope) 4), slopeValid := true }) ∧
    (¬(48 ≤ fits.length ∧ 43200 ≤ secDiff newest origin) → m.fitSlope alarm = m)) ∧
  -- the lookup
  (∀ (m : Model) (alarm : Bool) (t : Int),
    let p := t + 624
    let v (k : Nat) : Int := (m.table.getD k ⟨0, 0⟩).v
    let w (k : Nat) : Nat := (m.table.getD k ⟨0, 0⟩).w
    (alarm = true → m.lookup alarm t = ⟨200, none⟩) ∧
    (alarm = false → (p < 0 ∨ 2016 ≤ p) →
      let i : Nat := if p < 0 then 0 else 63
      m.lookup alarm t = if 16 ≤ w i then ⟨2, some (v i)⟩ else if 1 ≤ w i then ⟨8, some (v i)⟩ else m.search p i) ∧
    (alarm = false → 0 ≤ p → p < 2016 →
      let i : Nat := (p / 32).toNat
      let between : Int := v i + nearest ((v (i + 1) - v i) * (p % 32)) 32
      m.lookup alarm t =
        if 16 ≤ w i ∧ 16 ≤ w (i + 1) then ⟨2, some between⟩
        else if 1 ≤ w i ∧ 1 ≤ w (i + 1) then ⟨8, some between⟩
        else if 1 ≤ w i then ⟨40, some (v i)⟩
        else if 1 ≤ w (i + 1) then ⟨40, some (v (i + 1))⟩
        else m.search p i)) ∧
  (∀ (m : Model) (p : Int) (i : Nat),
    let full (k : Nat) : Prop := k ≤ 63 ∧ i ≤ k + 4 ∧ k ≤ i + 4 ∧ 0 < (m.table.getD k ⟨0, 0⟩).w
    let far (k : Nat) : Nat := ((32 * k : Int) - p).natAbs
    ((∀ k, ¬full k) → m.search p i = ⟨200, none⟩) ∧
    ∀ k, full k → (∀ j, full j → far k < far j ∨ (far k = far j ∧ k ≤ j)) →
      m.search p i = ⟨40, some (m.table.getD k ⟨0, 0⟩).v⟩) ∧
  -- the loop update
  ∀ (order : List UpdatePart) (s : State), s.running = true → ∃ u : State, exec (.loopUpdate order) s = .next u ∧
    let alarm : Bool := s.ssq.alarms.tosc.state != .inRange
    let closed (m : Model) (o : OpenBin) : Model :=
      let b : Bin :=
        { start := o.start, finish := o.finish, centre := o.start + BitVec.ofInt 48 (nearest (secDiff o.finish o.start) 2)
          mean := nearest o.sumI (16 * o.samples), temp := nearest o.sumT o.samples, spread := (ceiling (o.maxI - o.minI) 256).toNat
          samples := o.samples, disturbed := o.disturbed }
      if o.samples < 300 then m else { m with history := appendBin m.history b }.learn alarm b
    let left (bin : Option OpenBin) (m : Model) : Lrn := { s.lrn with openBin := bin, model := m, verdict := u.lrn.verdict }
    match u.dlp.engine with
    | .locked f =>
      let biased (m : Model) : Model :=
        if ((atLoop order s).record .f1).state = .qualified then
          match gateOffset s with
          | none => m
          | some d => { m with f1Bias := clampAbs 10000000 (m.f1Bias + nearest (d - m.f1Bias) 64) }
        else m
      let followed : Bool := match s.dlp.engine with
        | .locked g => g != f
        | _ => false
      let disturbed : Bool :=
        followed || decide (s.lrn.warmup = .warming ∨ u.sdc.atLimit ≠ .clear ∨ s.sdc.steering = .held) || alarm
      let i := u.dlp.integral
      let now := s.tsu.seconds
      match s.tosc with
      | none => u.lrn = left s.lrn.openBin (biased s.lrn.model)
      | some temp =>
        let o : OpenBin := match s.lrn.openBin with
          | none => { start := now, finish := now, samples := 1, sumI := i, sumT := temp, maxI := i, minI := i, disturbed := disturbed }
          | some o => { o with
              finish := now, samples := o.samples + 1, sumI := o.sumI + i, sumT := o.sumT + temp, maxI := max o.maxI i
              minI := min o.minI i, disturbed := o.disturbed || disturbed }
        u.lrn = if o.samples = 900 then left none (biased (closed s.lrn.model o)) else left (some o) (biased s.lrn.model)
    | _ =>
      u.lrn = left none (match s.lrn.openBin with
        | none => s.lrn.model
        | some o => closed s.lrn.model o)

/-- Every step keeps the sizes and ranges of the model and of the episode list (R94, R100, R107 to R109, R138). -/
def Obligations.ModelStaysSized : Prop :=
  ∀ s u : State, ModelSized s → step s = .next u → ModelSized u

/-- A slew tick moves the output code toward the target by at most the slew step, and the moved flag says whether it moved; while HELD the
code stays and the flag clears (R144). -/
def Obligations.SlewTickMoves : Prop :=
  ∀ (k : Fin 16) (s : State), s.running = true → s.tsu.phase ≤ k.val * (s.tsu.interval / 16) → 0 < s.tsu.interval →
    ∃ o : Nat, exec (.slewTick k) s = .next { atPhase s (k.val * (s.tsu.interval / 16)) with
        sdc := { s.sdc with output := o, moved := decide (o ≠ s.sdc.output) } } ∧
      match s.sdc.steering with
      | .held => o = s.sdc.output
      | .normal =>
        (s.sdc.output ≤ s.sdc.target → o = min s.sdc.target (s.sdc.output + s.site.nat .slewStep)) ∧
        (s.sdc.target ≤ s.sdc.output → o = max s.sdc.target (s.sdc.output - s.site.nat .slewStep))

/-- Every step keeps both codes within the DAC's range (R141, R142). -/
def Obligations.CodesStayInRange : Prop :=
  ∀ s u : State, CodesInRange s.sdc → step s = .next u → CodesInRange u.sdc

/-- The start of a sensor sequence marks it in progress, and the VCTL sample of a sequence in progress latches the output code and the moved
flag; neither changes anything else (R145, R148). -/
def Obligations.SequenceStartAndLatch : Prop :=
  ∀ s : State, s.running = true →
    exec .sensorSequenceStart s = .next { s with ssq := { s.ssq with inProgress := true } } ∧
    (s.ssq.inProgress = true →
      exec .vctlSample s = .next { s with sdc := { s.sdc with latchedCode := s.sdc.output, latchedMoved := s.sdc.moved } })

/-- The end of a sensor sequence replaces the results by those its raw counts give and adds 1 to the sequence count. The readback is
compared with the latched code, and the runs of its outcomes make the DAC HELD and NORMAL again; a valid oven current moves the warm-up
state; a change to WARMING, an entry to HELD and an entry of the TOSC alarm to LOW or HIGH disturb the open bin; each alarmed channel's
valid result is counted toward entering, leaving or crossing its alarm; the verdict is the first condition that holds. The codes, the time
scale but for its phase, the references, the engine, the channels and the settings stay (R96, R99, R114, R145 to R153). -/
def Obligations.SequenceCompleted : Prop :=
  (∀ (t : Nat) (raw : RawCounts) (s : State), Timely s t → s.ssq.inProgress = true →
    ∃ u : State, exec (.sequenceComplete t raw) s = .next u ∧ u.ssq.inProgress = false ∧
      u.ssq.count = (s.ssq.count + 1) % 4294967296 ∧ u.ssq.raw = raw ∧
      (let valid (x : Raw12) : Bool := decide (raw.ofs.toNat ≤ 64 ∧ x.toNat ≠ 4095)
       let n (x : Raw12) : Int := max 0 ((x.toNat : Int) - raw.ofs.toNat)
       u.ssq.results.offsetValid = decide (raw.ofs.toNat ≤ 64) ∧
       u.ssq.results.tosc = (if valid raw.tosc then some (n raw.tosc - 1024) else none) ∧
       u.ssq.results.tbrd = (if valid raw.tbrd then some (n raw.tbrd - 1024) else none) ∧
       u.ssq.results.vsup = (if valid raw.vsup then some (4 * n raw.vsup) else none) ∧
       u.ssq.results.iovn = (if valid raw.iovn then some (n raw.iovn) else none) ∧
       u.ssq.results.vctl = (if valid raw.vctl then some (256 * n raw.vctl) else none)) ∧
      -- readback
      (let code : Nat := s.sdc.latchedCode
       let outcome : ReadbackOutcome := match u.ssq.results.vctl with
         | none => .skipped
         | some v =>
           if s.sdc.latchedMoved = true then .skipped
           else if s.site.val .readbackTolerance < ((v - code).natAbs : Int) then .disagree else .agree
       let after (steering : Steering) (faultRun agreeRun : Nat) : Sdc := { s.sdc with
         readback := some ⟨code, u.ssq.results.vctl, u.ssq.results.vctl.map (fun v => v - code), outcome⟩
         steering := steering, faultRun := faultRun, agreeRun := agreeRun }
       u.sdc = match s.sdc.steering, outcome with
         | x, .skipped => after x s.sdc.faultRun s.sdc.agreeRun
         | .normal, .agree => after .normal 0 s.sdc.agreeRun
         | .normal, .disagree =>
           if s.site.nat .readbackFaultCount ≤ s.sdc.faultRun + 1 then after .held 0 0
           else after .normal (s.sdc.faultRun + 1) s.sdc.agreeRun
         | .held, .agree =>
           if 8 ≤ s.sdc.agreeRun + 1 then after .normal 0 0 else after .held s.sdc.faultRun (s.sdc.agreeRun + 1)
         | .held, .disagree => after .held s.sdc.faultRun 0) ∧
      -- warm-up
      (let runs := (u.lrn.warmup, u.lrn.settleRun, u.lrn.overRun)
       match u.ssq.results.iovn with
       | none => runs = (s.lrn.warmup, s.lrn.settleRun, s.lrn.overRun)
       | some i => runs =
         match s.lrn.warmup with
         | .warming =>
           if i ≤ s.site.val .settleCurrent then
             (if s.site.nat .settleTime ≤ min 65535 (s.lrn.settleRun + 1) then (.settled, 0, 0)
              else (.warming, min 65535 (s.lrn.settleRun + 1), s.lrn.overRun))
           else (.warming, 0, s.lrn.overRun)
         | .settled =>
           if i ≤ s.site.val .settleCurrent then (.settled, s.lrn.settleRun, 0)
           else if 10 ≤ s.lrn.overRun + 1 then (.warming, 0, 0)
           else (.settled, s.lrn.settleRun, s.lrn.overRun + 1)) ∧
      -- the open bin
      (let warmed : Prop := s.lrn.warmup = .settled ∧ u.lrn.warmup = .warming
       let held : Prop := s.sdc.steering = .normal ∧ u.sdc.steering = .held
       let alarmed : Prop := u.ssq.alarms.tosc.state ≠ .inRange ∧ u.ssq.alarms.tosc.state ≠ s.ssq.alarms.tosc.state
       u.lrn.openBin = s.lrn.openBin.map (fun o => { o with disturbed := o.disturbed || decide (warmed ∨ held ∨ alarmed) })) ∧
      -- alarms
      (let moved (c : AlarmChannel) (r : Option Int) : Prop :=
         u.ssq.alarms.get c = (s.ssq.alarms.get c).step (SiteLimits s.site c) r
       moved .tosc u.ssq.results.tosc ∧ moved .tbrd u.ssq.results.tbrd ∧ moved .vsup u.ssq.results.vsup ∧
       moved .vctl u.ssq.results.vctl) ∧
      -- verdict
      (let raised (c : AlarmChannel) : Prop := (u.ssq.alarms.get c).state ≠ .inRange
       let m := u.lrn.model
       u.lrn.verdict =
         if u.sdc.steering = .held ∨ raised .tosc ∨ (m.slopeValid = true ∧ m.slope.natAbs = 320000) then .failed
         else if u.lrn.warmup = .warming ∨ raised .tbrd ∨ raised .vsup ∨ raised .vctl ∨ u.sdc.atLimit ≠ .clear then .impaired
         else if m.slopeValid = false ∨ (m.table.filter (fun x => decide (16 ≤ x.w))).length < 8 then .learning
         else .ready) ∧
      u.lrn.model = s.lrn.model ∧
      u.tsu = { s.tsu with phase := t } ∧ u.rfe = s.rfe ∧ u.rqu = s.rqu ∧ u.dlp = s.dlp ∧ u.hop = s.hop ∧ u.oc = s.oc ∧
      u.sst = s.sst ∧ u.stc = s.stc ∧ u.flash = s.flash) ∧
  -- an alarm's result
  ∀ (a : Alarm) (l : Limits) (r : Int),
    let below : Prop := r < l.low
    let above : Prop := l.high < r ∧ ¬below
    let raising (side : Side) : Alarm :=
      let run := if a.side = side then min 8 (a.entryRun + 1) else 1
      let exitRun := if a.state = .inRange then a.exitRun else 0
      let state : AlarmState := match side with
        | .low => .low
        | .high => .high
      if l.count ≤ run then { state := state, entryRun := 0, side := side, exitRun := 0 }
      else { state := a.state, entryRun := run, side := side, exitRun := exitRun }
    let leaving : Alarm :=
      if l.count ≤ min 8 (a.exitRun + 1) then { a with state := .inRange, entryRun := 0, exitRun := 0 }
      else { a with entryRun := 0, exitRun := min 8 (a.exitRun + 1) }
    a.step l none = a ∧
    (a.state = .inRange → a.step l (some r) =
      if below then raising .low else if above then raising .high else { a with entryRun := 0 }) ∧
    (a.state = .low → a.step l (some r) =
      if above then raising .high
      else if l.low + l.hysteresis ≤ r ∧ r ≤ l.high then leaving else { a with entryRun := 0, exitRun := 0 }) ∧
    (a.state = .high → a.step l (some r) =
      if below then raising .low
      else if l.low ≤ r ∧ r ≤ l.high - l.hysteresis then leaving else { a with entryRun := 0, exitRun := 0 })

/-! ## Output channels -/

/-- A due instant serves the epoch's pulse: an ACTIVE channel emits it with its label and end instant, a QUIET one passes it over; nothing else
changes (R162, R163). -/
def Obligations.PulseDueServed : Prop :=
  ∀ (k : Port) (due : Nat) (s : State), Timely s due →
    let c := s.oc.get k
    let pulse (label : Sec) : Channel := if c.state = .active then
      { c with pulseEnd := some (due + 1000 * c.settings.width), lastLabel := some label, linePolarity := c.settings.polarity } else c
    (0 ≤ c.settings.delay → c.openingServed = false → (due : Int) = 1000 * c.settings.delay →
      exec (.pulseDue k) s =
        .next { atPhase s due with oc := s.oc.set k { pulse s.tsu.seconds with openingServed := true } }) ∧
    (c.settings.delay < 0 → c.closingServed = false → (due : Int) = s.tsu.interval + 1000 * c.settings.delay →
      exec (.pulseDue k) s =
        .next { atPhase s due with oc := s.oc.set k { pulse (s.tsu.seconds + 1) with closingServed := true } })

/-- A pulse ends at the lesser of its recorded end and the instant 100 ns before the channel's next due instant, which is that of the first
epoch whose pulse is not served; the line returns to the resting level of the polarity set, and nothing else changes (R159, R162, R163; log
entry 43 for a recorded end that falls within those 100 ns). -/
def Obligations.PulseEnds : Prop :=
  ∀ (k : Port) (e end_ : Nat) (s : State), Timely s e → (s.oc.get k).pulseEnd = some end_ →
    let c := s.oc.get k
    let closing : Int := s.tsu.interval + 1000 * c.settings.delay
    let due : Int :=
      if 0 ≤ c.settings.delay ∧ c.openingServed = false then 1000 * c.settings.delay
      else if c.closingServed = false then closing
      else closing + s.tsu.nextInterval
    (e : Int) = max 0 (min (end_ : Int) (due - 100000)) →
    exec (.pulseEnd k) s =
      .next { atPhase s e with oc := s.oc.set k { c with pulseEnd := none, linePolarity := c.settings.polarity } }

/-- A CHANNEL SET whose choices name no value is answered MALFORMED and changes nothing; otherwise all eight settings are applied, clamped
into their ranges, and the channel's state follows R161. A change of D adjusts the served marks by R162 and flushes the window; an entry to
QUIET ends the pulse in progress and flushes the window; a new polarity waits for the end of a pulse in progress. No other channel, window,
reference or setting changes (R37, R158, R159, R161, R162). -/
def Obligations.ChannelSetApplied : Prop :=
  ∀ (k : Port) (t : Nat) (f : ChannelFields) (s : State), Ready s k t → s.stc.store.isLoading = false →
    (channelSettingsOf f = none → exec (.channelSet k t f) s = .next (answered s k t 0x0E [2])) ∧
    ∀ x, channelSettingsOf f = some x → ∃ u : State, exec (.channelSet k t f) s = .next u ∧
      (u.oc.get k).settings = { x with
        delay := max (-1000000) (min 1000000 x.delay)
        width := max 100 (min 500000000 x.width)
        limit := max 10 (min 4000000000 x.limit) } ∧
      (u.oc.get k).state =
        (if x.enabled = false then .quiet .disabled
         else if x.requireTraceable = true ∧ s.tsu.traceable = false then .quiet .untraceable
         else if x.action = .squelch ∧ (s.oc.get k).overBudget = true then .quiet .overBudget
         else .active) ∧
      (let c := s.oc.get k
       let c' := u.oc.get k
       let d := c'.settings.delay
       let moved : Bool := decide (d ≠ c.settings.delay)
       let quieted : Bool := decide (c.state = .active ∧ c'.state ≠ .active)
       c' = { c with
         settings := c'.settings
         state := c'.state
         openingServed := c.openingServed || (moved && decide (d < 0 ∨ 1000 * d < (t : Int)))
         closingServed := c.closingServed || (moved && decide (d < 0 ∧ (s.tsu.interval : Int) + 1000 * d < t))
         pulseEnd := if quieted then none else c.pulseEnd
         linePolarity := if quieted = true ∨ c.pulseEnd = none then x.polarity else c.linePolarity } ∧
       u.rfe = if moved || quieted then { s.rfe with windows := s.rfe.windows.set k (flushed s k) } else s.rfe) ∧
      (u.oc.get k).overBudget = (s.oc.get k).overBudget ∧ (∀ j ∈ ports, j ≠ k → u.oc.get j = s.oc.get j ∧ u.tp.get j = s.tp.get j) ∧
      (∃ f, (u.tp.get k).queue.getLast? = some f ∧ f.kind = 0x0E ∧
        f.payload.head? = some (if (u.oc.get k).settings = x then 0 else 1)) ∧
      u.tsu = { s.tsu with phase := t } ∧ u.rqu = s.rqu ∧ u.dlp = s.dlp ∧ u.lrn = s.lrn ∧ u.hop = s.hop ∧ u.sdc = s.sdc ∧
      u.sst = s.sst ∧ u.stc = s.stc ∧ u.flash = s.flash

/-- After every loop update each channel's over-budget flag follows B with its hysteresis, and its state follows its settings, the traceable
flag and the over-budget flag; an entry to QUIET ends the pulse in progress and flushes the window, and nothing else of a channel or of a
window changes (R37, R161, R165). -/
def Obligations.BudgetFollowsBound : Prop :=
  ∀ (order : List UpdatePart) (s : State), s.running = true → ∃ u : State, exec (.loopUpdate order) s = .next u ∧
    ∀ k ∈ ports,
      let c := s.oc.get k
      let c' := u.oc.get k
      c'.settings = c.settings ∧
      c'.overBudget = (if c.overBudget then !decide (4 * u.tsu.bound ≤ 3 * c.settings.limit) else decide (c.settings.limit ≤ u.tsu.bound)) ∧
      c'.state =
        (if c.settings.enabled = false then .quiet .disabled
         else if c.settings.requireTraceable = true ∧ u.tsu.traceable = false then .quiet .untraceable
         else if c.settings.action = .squelch ∧ c'.overBudget = true then .quiet .overBudget
         else .active) ∧
      let quieted : Bool := decide (c.state = .active ∧ c'.state ≠ .active)
      c' = { c with
        overBudget := c'.overBudget
        state := c'.state
        pulseEnd := if quieted then none else c.pulseEnd
        linePolarity := if quieted then c.settings.polarity else c.linePolarity } ∧
      u.rfe.windows.get k = if quieted then flushed s k else s.rfe.windows.get k

/-! ## Tenant ports -/

/-- The first edge of a transaction takes the head of the queue, or the idle frame, with the depth left, the dropped flag and the port state in
its status byte; the status byte once out clears the dropped flag; nothing else changes (R171). -/
def Obligations.TransactionBegins : Prop :=
  ∀ (k : Port) (s : State), s.running = true →
    let p := s.tp.get k
    let status : Byte :=
      BitVec.ofNat 8 (min (p.queue.length - 1) 7 + (if p.dropped then 8 else 0) + (if p.state = .suspect then 16 else 0))
    let p1 : TenantPort := { p with queue := p.queue.tail, transmit := some ⟨p.queue.head?, status, false⟩ }
    (p.transmit = none → exec (.transactionStart k) s = .next { s with tp := s.tp.set k p1 }) ∧
    ∀ x, p.transmit = some x → x.statusOut = false →
      let p2 : TenantPort := { p with dropped := false, transmit := some { x with statusOut := true } }
      exec (.statusByteClockedOut k) s = .next { s with tp := s.tp.set k p2 }

/-- A frame that is short or whose CRC-8 differs is bad: it counts, saturating at 255, and makes a NORMAL port SUSPECT at the fault limit; the
outbound frame is lost where fewer bytes were clocked than it has; nothing else changes (R171 to R173). -/
def Obligations.BadFrameCounted : Prop :=
  ∀ (k : Port) (t : Nat) (bytes : List Byte) (x : Transmit) (s : State), Timely s t → (s.tp.get k).transmit = some x →
    let len := (bytes.getD 1 0).toNat
    (bytes.length < 3 ∨ 60 < len ∨ bytes.length < 3 + len ∨ bytes.getD (2 + len) 0 ≠ crc8 (bytes.take (2 + len))) →
    let p := s.tp.get k
    let n := min 255 (p.badCount + 1)
    exec (.frameReceived k t bytes) s = .next (withPort s k t { p with
      transmit := none
      dropped := p.dropped || (x.frame.isSome && decide (bytes.length < 4 + (x.frame.map (fun f => f.payload.length)).getD 0))
      badCount := n
      state := if p.faultLimit ≤ n then .suspect else p.state })

/-- An attention pulse ends at its instant; nothing else changes (R179; log entry 25 for the time it is reckoned on). -/
def Obligations.AttentionPulseEnds : Prop :=
  ∀ (k : Port) (e : Nat) (s : State), Timely s e → (s.tp.get k).pulseEnd = some e →
    exec (.attentionPulseEnd k) s = .next (withPort s k e { s.tp.get k with pulseEnd := none })

/-- Reading a request's frame, with any bytes after its CRC, gives back the request with every field (R172, R174, R195, R196). -/
def Obligations.RequestFramesReadBack : Prop :=
  ∀ (q : Request) (fill : List Byte),
    judgeFrame (List.append q.frame fill) = .good (byte q.kind) q.payload ∧ parse (byte q.kind) q.payload = .request q

/-- A request command is the whole transaction: its first edge, its status byte clocked out, and the release of CS with the request's frame
and enough bytes to clock the outbound frame out (R171 to R174; log entry 7). -/
def Obligations.RequestIsTransaction : Prop :=
  ∀ (q : Request) (k : Port) (t : Nat) (fill : List Byte) (s : State), s.running = true → (s.tp.get k).transmit = none →
    outboundSize (s.tp.get k) ≤ (List.append q.frame fill).length →
    ∃ s1 s2 u : State, exec (.transactionStart k) s = .next s1 ∧ exec (.statusByteClockedOut k) s1 = .next s2 ∧
      exec (.frameReceived k t (List.append q.frame fill)) s2 = .next u ∧ exec (command k t q) s = .next u

/-- Every step keeps each queue's frames and reservation at 8 at most, with at most one notice of each kind (R175 to R177). -/
def Obligations.QueuesStaySound : Prop :=
  ∀ s u : State, QueuesSound s → step s = .next u → QueuesSound u

/-- POLL collects the head of the queue and has no response; IDENTIFY and STATUS are answered in every store state (R173, R174, R182,
R183). -/
def Obligations.PollStatusIdentify : Prop :=
  ∀ (k : Port) (t : Nat) (s : State), Ready s k t →
    exec (.poll k t) s = .next (atDispatch s k t) ∧
    exec (.status k t) s =
      .next (answered s k t 0x02 ((atDispatch s k t).statusResponse k ⟨(s.tp.get k).state, (s.tp.get k).badCount⟩)) ∧
    ∃ record : List Byte, exec (.identify k t) s = .next (answered s k t 0x03 (0 :: record)) ∧ record.length = 17 ∧
      record.foldl (· + ·) 0 = 0#8

/-- The read requests change nothing but their port, whose queue their response joins (R68, R110, R111, R115, R139, R156, R160, R185). -/
def Obligations.ReadRequestsAnswered : Prop :=
  ∀ (k : Port) (t : Nat) (i x : Byte) (s : State), Ready s k t → s.stc.store.isLoading = false →
    exec (.referenceGet k t i x) s = .next (answered s k t 0x07 ((atPhase s t).referenceResponse i x)) ∧
    exec (.historyGet k t i) s = .next (answered s k t 0x08 ((atPhase s t).historyResponse i)) ∧
    exec (.tableGet k t i) s = .next (answered s k t 0x09 ((atPhase s t).tableResponse i)) ∧
    exec (.healthGet k t) s = .next (answered s k t 0x0A ((atPhase s t).healthResponse)) ∧
    exec (.episodeGet k t i x) s = .next (answered s k t 0x0C ((atPhase s t).episodeResponse i x)) ∧
    exec (.sensorGet k t) s = .next (answered s k t 0x0D ((atPhase s t).sensorResponse)) ∧
    exec (.channelGet k t) s = .next (answered s k t 0x0F ((atPhase s t).channelGetResponse k)) ∧
    exec (.siteGet k t i x) s = .next (answered s k t 0x10 ((atPhase s t).siteGetResponse i x))

/-- While the store is LOADING every request but POLL, IDENTIFY and STATUS is answered BUSY and changes nothing but its port (R174). -/
def Obligations.BusyWhileLoading : Prop :=
  ∀ (q : Request) (k : Port) (t : Nat) (s : State), Ready s k t → s.stc.store.isLoading = true →
    q ≠ .poll → q ≠ .status → q ≠ .identify → exec (command k t q) s = .next (answered s k t q.kind [4])

/-- PORT SET applies the mode, the polarity and the next fault limit among 1, 2, 4 and 8, or is answered MALFORMED; PORT RESET restores the
port's reset values but for a reservation, flushes its window and answers OK; other ports stay (R179 to R181). -/
def Obligations.PortRequests : Prop :=
  ∀ (k : Port) (t : Nat) (m q limit : Byte) (s : State), Ready s k t → s.stc.store.isLoading = false →
    let p := collected (s.tp.get k)
    let n : Nat := if limit.toNat ≤ 1 then 1 else if limit.toNat ≤ 2 then 2 else if limit.toNat ≤ 4 then 4 else 8
    let mode : AttentionMode := if m = 1 then .pulse else .level
    let polarity : AttentionPolarity := if q = 1 then .activeHigh else .activeLow
    let anew : TenantPort := { p with
      mode := mode, polarity := polarity, faultLimit := n, pulseEnd := if mode = .pulse ∧ p.mode = .pulse then p.pulseEnd else none }
    let cleared : TenantPort :=
      { TenantPort.reset with reservation := p.reservation, queue := [{ notice := none, kind := 0x05, payload := [0] }] }
    let w := s.rfe.windows.get k
    let flushed : Window := { w with reports := [], timer := w.timer.map (fun _ => s.site.nat (.stalePeriod k)) }
    exec (.portSet k t m q limit) s =
      (if 1 < m.toNat ∨ 1 < q.toNat then .next (answered s k t 0x04 [2])
       else .next (withPort s k t (withResponse anew t 0x04 [if n = limit.toNat then 0 else 1, m, q, BitVec.ofNat 8 n]))) ∧
    exec (.portReset k t) s = .next { withPort s k t cleared with rfe := { s.rfe with windows := s.rfe.windows.set k flushed } }

/-! ## Model requests, settings and the store -/

/-- A MODEL CLEAR is answered FROZEN while frozen, BUSY while the store is SAVING, and otherwise empties the model, sets the score to 16 and
marks an open episode and its record model-cleared, keeping everything else of the predictor: its score in use, U16, time, base and integral.
The response OK stands last in the port's queue (R112, R133; log entry 15 for the order of the two refusals, log entry 19 for the response that
follows a HEALTH notice of the clear). -/
def Obligations.ModelCleared : Prop :=
  ∀ (k : Port) (t : Nat) (s : State), Ready s k t → s.stc.store.isLoading = false →
    (s.sst.frozen = true → exec (.modelClear k t) s = .next (answered s k t 0x0B [5])) ∧
    (s.sst.frozen = false → s.stc.store ≠ .idle → exec (.modelClear k t) s = .next (answered s k t 0x0B [4])) ∧
    (s.sst.frozen = false → s.stc.store = .idle → ∃ u : State, exec (.modelClear k t) s = .next u ∧
      u.lrn = { s.lrn with model := Model.cleared, openBin := none, verdict := u.lrn.verdict } ∧
      u.hop = (if s.hop.isOpen then
          { s.hop with
            score := 16
            modelCleared := true
            episodes := match s.hop.episodes with
              | [] => []
              | e :: es => { e with modelCleared := true } :: es }
        else { s.hop with score := 16 }) ∧
      (∃ f, (u.tp.get k).queue.getLast? = some f ∧ f.kind = 0x0B ∧ f.payload = [0]) ∧
      u.tsu = { s.tsu with phase := t } ∧ u.rfe = s.rfe ∧ u.rqu = s.rqu ∧ u.dlp = s.dlp ∧ u.sdc = s.sdc ∧ u.ssq = s.ssq ∧
      u.oc = s.oc ∧ u.sst = s.sst ∧ u.stc = s.stc ∧ u.flash = s.flash)

/-- A SITE SET is answered by the first of R186's conditions that holds; an applied value replaces the one field's value, clamped into its
range, and a change of value raises the change count; the time scale, the engine, the model and the channels stay. A change of an inhibit
setting to on takes the record to INHIBITED, with its counts, hold-off, last estimate and history cleared, and flushes and stops a packet
window; a change to off takes an INHIBITED record to ABSENT. Either transition enters the trail (R52, R53, R186). That the response stands last
in the requesting port's queue, behind the SETTINGS notice and any REFERENCE CHANGE notice of the same step, is the model's choice (log entry
19). -/
def Obligations.SiteSetChecked : Prop :=
  ∀ (k : Port) (t : Nat) (ident inst : Byte) (v : BitVec 48) (s : State), Ready s k t → s.stc.store.isLoading = false →
    match Setting.named ident.toNat inst.toNat with
    | none => exec (.siteSet k t ident inst v) s = .next (answered s k t 0x11 [2])
    | some x =>
      if x.isChoice = true ∧ ¬(x.range.1 ≤ v.toInt ∧ v.toInt ≤ x.range.2) then
        exec (.siteSet k t ident inst v) s = .next (answered s k t 0x11 [2])
      else if s.sst.frozen = true then exec (.siteSet k t ident inst v) s = .next (answered s k t 0x11 [5])
      else ∃ u : State, exec (.siteSet k t ident inst v) s = .next u ∧
        u.site = s.site.put x (max x.range.1 (min x.range.2 v.toInt)) ∧ u.sst.frozen = false ∧
        u.sst.siteDefault = s.sst.siteDefault ∧
        u.sst.changeCount = (if s.site.val x = max x.range.1 (min x.range.2 v.toInt) then s.sst.changeCount
          else (s.sst.changeCount + 1) % 65536) ∧
        (∃ f, (u.tp.get k).queue.getLast? = some f ∧ f.kind = 0x11 ∧
          f.payload.head? = some (if x.range.1 ≤ v.toInt ∧ v.toInt ≤ x.range.2 then 0 else 1)) ∧
        u.tsu = { s.tsu with phase := t } ∧ u.dlp = s.dlp ∧ u.lrn = s.lrn ∧ u.hop = s.hop ∧ u.sdc = s.sdc ∧ u.ssq = s.ssq ∧
        u.oc = s.oc ∧ u.stc = s.stc ∧ u.flash = s.flash ∧
        ∀ r, x = .inhibit r → SettingsInRange s →
          let y := s.record r
          let z := u.record r
          (s.site.val x = 0 → v.toInt = 1 → y.state ≠ .inhibited →
            z.state = .inhibited ∧ z.trail = enterTrail s.tsu.seconds .inhibited .inhibit y.trail ∧ z.faultCount = 0 ∧ z.goodRun = 0 ∧
            z.holdOff = 0 ∧ z.currentHoldOff = y.currentHoldOff ∧ z.lastEstimate = none ∧ z.history = [] ∧
            (∀ a, r = .phase a → u.rqu.selected ≠ some a) ∧
            ∀ j, r = .phase (.packet j) → (u.rfe.windows.get j).reports = [] ∧ (u.rfe.windows.get j).timer = none) ∧
          (s.site.val x = 1 → v.toInt = 0 → y.state = .inhibited →
            z.state = .absent ∧ z.trail = enterTrail s.tsu.seconds .absent .inhibitCleared y.trail ∧ z.faultCount = 0 ∧ z.goodRun = 0 ∧
            z.lastEstimate = y.lastEstimate) ∧
          (s.site.val x = v.toInt → z = y)

/-- SITE FREEZE sets the frozen flag, keeps the record and the count, and is answered OK (R187). That the response OK stands last in the
requesting port's queue, behind the SETTINGS notice of the freeze, is the model's choice (log entry 19). -/
def Obligations.SiteFreezeSets : Prop :=
  ∀ (k : Port) (t : Nat) (s : State), Ready s k t → s.stc.store.isLoading = false →
    (s.sst.frozen = true → exec (.siteFreeze k t) s = .next (answered s k t 0x12 [0])) ∧
    ∃ u : State, exec (.siteFreeze k t) s = .next u ∧ u.sst = { s.sst with frozen := true } ∧
      (∃ f, (u.tp.get k).queue.getLast? = some f ∧ f.kind = 0x12 ∧ f.payload = [0]) ∧
      { u with tp := s.tp, sst := s.sst } = atPhase s t

/-- While the part is frozen, the site settings record does not change until the next hardware reset, and neither do the flag and the change
count; and the SITE area is not read again (R187). -/
def Obligations.FrozenRecordFixed : Prop :=
  ∀ (c : Instr) (s u : State), isReset c = false → s.stc.store ≠ .loadingSite → s.sst.frozen = true → exec c s = .next u →
    u.site = s.site ∧ u.sst.frozen = true ∧ u.sst.changeCount = s.sst.changeCount ∧ u.stc.store ≠ .loadingSite

/-- Every step keeps every site setting in its range (R184, R186, R188). -/
def Obligations.SettingsStayInRange : Prop :=
  ∀ s u : State, SettingsInRange s → step s = .next u → SettingsInRange u

/-- The SITE area's image is valid, and loading it gives back the record (R188, R193, R196). -/
def Obligations.SiteImageReadsBack : Prop :=
  ∀ r : SiteRecord, r.inRange = true →
    Area.contentOf .site (Area.image .site (siteContent r)) = some (siteContent r) ∧ siteOf (siteContent r) = r

/-- SITE SAVE and MODEL SAVE start a save of kind REQUESTED with a reservation where the store is IDLE, its snapshot the area's content as it
stands and its operations the erases owed, the area's erases and its programs; they are answered BUSY while it is SAVING (R175, R189, R190;
log entry 50 for the last page, which is not padded). -/
def Obligations.SaveRequests : Prop :=
  ∀ (k : Port) (t : Nat) (s : State), Ready s k t →
    let now : SaveTime := ⟨s.tsu.seconds, s.tsu.traceable⟩
    let save (a : Area) (image : List Byte) : Save :=
      { area := a, origin := .requested k, image := image, time := now, ops := saveOps s.stc.owed a image }
    (s.stc.store = .idle →
      exec (.siteSave k t) s = .next { withPort s k t { collected (s.tp.get k) with reservation := true } with
        stc := { s.stc with store := .saving (save .site (Area.image .site (siteContent s.site))) } } ∧
      exec (.modelSave k t) s = .next { withPort s k t { collected (s.tp.get k) with reservation := true } with
        stc := { s.stc with
          store := .saving (save .model (Area.image .model (modelContent s.lrn.model s.hop false now))), autosaveCount := 0 } }) ∧
    (∀ v, s.stc.store = .saving v →
      exec (.siteSave k t) s = .next (answered s k t 0x13 [4]) ∧ exec (.modelSave k t) s = .next (answered s k t 0x14 [4]))

/-- A due autosave starts a MODEL save of kind AUTO at an epoch with the store IDLE and no emergency pending; the power-fail warning starts an
EMERGENCY save, with the clean-stop marker set, where the store is IDLE and sets the pending flag during a REQUESTED or AUTO save; each sets
the autosave count to 0 where it starts a save, and otherwise changes nothing (R189, R191, R192; log entry 5 for an autosave that is not
due). -/
def Obligations.UnrequestedSavesStart : Prop :=
  ∀ s : State, s.running = true →
    let now : SaveTime := ⟨s.tsu.seconds, s.tsu.traceable⟩
    let save (o : SaveOrigin) (marker : Bool) : Save :=
      let image := Area.image .model (modelContent s.lrn.model s.hop marker now)
      { area := .model, origin := o, image := image, time := now, ops := saveOps s.stc.owed .model image }
    (exec .autosave s = .next
      (if s.tsu.phase = 0 ∧ s.stc.store = .idle ∧ s.stc.pendingEmergency = false ∧ s.site.nat .autosaveInterval ≠ 0 ∧
          3600 * s.site.nat .autosaveInterval ≤ s.stc.autosaveCount then
        { s with stc := { s.stc with store := .saving (save .auto false), autosaveCount := 0 } }
      else s)) ∧
    match s.stc.store with
    | .idle => exec .powerFailWarning s =
        .next { s with stc := { s.stc with store := .saving (save .emergency true), autosaveCount := 0 } }
    | .saving v => exec .powerFailWarning s =
        .next (if v.origin = .emergency then s else { s with stc := { s.stc with pendingEmergency := true } })
    | _ => exec .powerFailWarning s = .next s

/-- A save ends OK where the device completed every operation, and FAILED at an error or after 3 s: the last save record and the owed erase
say so; an OK save leaves its image in its area, and one of the SITE area clears the site-default flag; a pending emergency save starts, else
the store is IDLE. The response of a REQUESTED save takes the reservation's place in its port's queue, and any other save places a STORE
notice where a queue holds one already or has room (R175, R176, R189, R190, R192, R194; log entry 34 for what the notice carries where an
emergency save is pending, log entry 45 for the site-default flag). -/
def Obligations.SaveEnds : Prop :=
  ∀ (t clean : Nat) (progress : SaveProgress) (v : Save) (s : State), Timely s t → s.stc.store = .saving v →
    s.stc.owed.length ≤ v.ops.length →
    ∃ u w : State, exec (.saveEnd t clean) s = .next u ∧ exec (.saveTimeout t progress) s = .next w ∧
      u.stc.lastSave = some ⟨v.area, v.origin.kind, decide (v.ops.length ≤ clean), v.time⟩ ∧
      w.stc.lastSave = some ⟨v.area, v.origin.kind, false, v.time⟩ ∧
      (v.ops.length ≤ clean → match v.area with
        | .site => u.flash.site = some v.image ∧ u.sst = { s.sst with siteDefault := false } ∧ u.stc.owedSite = false
        | .model => u.flash.model = some v.image ∧ u.sst = s.sst ∧ u.stc.owedModel = false) ∧
      (clean < v.ops.length → u.sst = s.sst ∧ match v.area with
        | .site => u.stc.owedSite = true
        | .model => u.stc.owedModel = true) ∧
      w.sst = s.sst ∧
      (match v.area with
        | .site => w.stc.owedSite = true
        | .model => w.stc.owedModel = true) ∧
      ∀ (y : State) (ok : Bool), (y = u ∧ ok = decide (v.ops.length ≤ clean)) ∨ (y = w ∧ ok = false) →
        y.stc.pendingEmergency = false ∧
        (if s.stc.pendingEmergency then ∃ z : Save, y.stc.store = .saving z ∧ z.area = .model ∧ z.origin = .emergency
         else y.stc.store = .idle) ∧
        (let result : Byte := if ok then 0 else 13
         let saveTime : List Byte := List.append (beBytes 6 v.time.sec.toNat) [if v.time.traceable then 1 else 0]
         match v.origin with
         | .requested k =>
           let p := s.tp.get k
           let kind : Nat := match v.area with
             | .site => 0x13
             | .model => 0x14
           (∀ j ∈ ports, j ≠ k → y.tp.get j = s.tp.get j) ∧
           (p.reservation = true → p.places ≤ 8 →
             y.tp.get k = withResponse { p with reservation := false } t kind (result :: saveTime))
         | _ =>
           ∀ j ∈ ports, (0 < noticeCount (s.tp.get j).queue .store ∨ (s.tp.get j).places < 8) →
             ∃ f ∈ (y.tp.get j).queue, f.notice = some .store ∧ f.payload = List.flatten
               [beBytes 6 s.tsu.seconds.toNat, uField 6 t,
                [match v.area with
                  | .site => 0
                  | .model => 1,
                 if v.origin = .auto then 1 else 2, result], saveTime,
                [if s.stc.pendingEmergency then 1 else 0, if s.stc.pendingEmergency then 2 else 1]]) ∧
        y.tsu = { s.tsu with phase := t } ∧ y.rfe = s.rfe ∧ y.rqu = s.rqu ∧ y.dlp = s.dlp ∧ y.lrn = s.lrn ∧ y.hop = s.hop ∧
        y.sdc = s.sdc ∧ y.ssq = s.ssq ∧ y.oc = s.oc
end

