-- ==== Sys2Proof/Laws/Arith.lean ====
section
/-! SUPPORT. What the named arithmetic gives: clamps as maxima and minima, saturating counts, the roundings, the fields of frames and the
reading back of what they spell. -/

set_option Elab.async false

namespace Sys2Proof

/-! ## Clamps and counts -/

theorem clamp_eq_max_min (lo hi x : Int) (h : lo ≤ hi) : clamp lo hi x = max lo (min hi x) := by
  unfold clamp; split <;> [skip; split] <;> omega

theorem clamp_mem (lo hi x : Int) (h : lo ≤ hi) : lo ≤ clamp lo hi x ∧ clamp lo hi x ≤ hi := by
  unfold clamp; split <;> [skip; split] <;> omega

theorem clamp_of_mem (lo hi x : Int) (h : lo ≤ x) (h' : x ≤ hi) : clamp lo hi x = x := by
  unfold clamp; split <;> [skip; split] <;> omega

theorem natAbs_clampAbs_le (m x : Int) (h : 0 ≤ m) : ((clampAbs m x).natAbs : Int) ≤ m := by
  have := clamp_mem (-m) m x (by omega)
  unfold clampAbs; omega

theorem clampAbs_of_natAbs_le (m x : Int) (h : (x.natAbs : Int) ≤ m) : clampAbs m x = x :=
  clamp_of_mem _ _ _ (by omega) (by omega)

theorem satSucc_eq_min (top n : Nat) : satSucc top n = min top (n + 1) := by unfold satSucc; split <;> omega

/-! ## Roundings -/

theorem nearest_zero (d : Int) (h : 0 < d) : nearest 0 d = 0 := by
  have : d / (2 * d) = 0 := Int.ediv_eq_zero_of_lt (by omega) (by omega)
  simp [nearest, this]

theorem nearest_mul_256 (n : Int) : nearest (256 * n) 256 = n := by unfold nearest; split <;> omega

theorem ceiling_nat (n d : Nat) (h : 0 < d) : (ceiling (n : Int) (d : Int)).toNat = (n + d - 1) / d := by
  have key : ceiling (n : Int) (d : Int) = (((n + d - 1) / d : Nat) : Int) := by
    unfold ceiling
    have hq := Nat.div_add_mod (n + d - 1) d
    have hr := Nat.mod_lt (n + d - 1) h
    generalize (n + d - 1) / d = q at *
    generalize (n + d - 1) % d = r at *
    have hq' : (d : Int) * q + r = n + d - 1 := by have : 1 ≤ n + d := by omega
                                                   zify [this] at hq; exact hq
    have e : (-(n : Int)) / d = -(q : Int) :=
      ((Int.ediv_emod_unique (r := (d : Int) - 1 - r) (by omega)).2 ⟨by linarith, by omega, by omega⟩).1
    rw [e, neg_neg]
  rw [key, Int.toNat_natCast]

/-! ## Fields -/

@[simp] theorem beBytes_length (n v : Nat) : (beBytes n v).length = n := by
  induction n with
  | zero => rfl
  | succ n ih => simp [beBytes, ih]

@[simp] theorem uField_length (n v : Nat) : (uField n v).length = n := beBytes_length _ _

@[simp] theorem sField_length (n : Nat) (v : Int) : (sField n v).length = n := beBytes_length _ _

@[simp] theorem u1_length (v : Nat) : (u1 v).length = 1 := beBytes_length _ _

@[simp] theorem secField_length (t : Sec) : (secField t).length = 6 := beBytes_length _ _

@[simp] theorem absent_length (n : Nat) : (absent n).length = n := List.length_replicate ..

theorem u1_of_lt (v : Nat) (h : v < 256) : u1 v = [byte v] := by simp [u1, uField, beBytes, h, byte]

theorem uField_of_lt (n v : Nat) (h : v < 256 ^ n) : uField n v = beBytes n v := by simp [uField, h]

theorem natOf_foldl (bs : List Byte) (a : Nat) :
    bs.foldl (fun n b => 256 * n + b.toNat) a = a * 256 ^ bs.length + natOf bs := by
  induction bs generalizing a with
  | nil => simp [natOf]
  | cons b bs ih =>
    simp only [List.foldl_cons, List.length_cons, natOf]
    rw [ih, ih (256 * 0 + b.toNat)]
    ring

@[simp] theorem natOf_cons (b : Byte) (bs : List Byte) : natOf (b :: bs) = b.toNat * 256 ^ bs.length + natOf bs := by
  have := natOf_foldl bs (256 * 0 + b.toNat)
  simpa [natOf] using this

/-- The bytes of a number, read, give its remainder modulo the width. -/
theorem natOf_beBytes (n v : Nat) : natOf (beBytes n v) = v % 256 ^ n := by
  induction n generalizing v with
  | zero => simp [beBytes, natOf, Nat.mod_one]
  | succ n ih =>
    rw [beBytes, natOf_cons, beBytes_length, ih]
    simp only [BitVec.toNat_ofNat]
    rw [show (2 : Nat) ^ 8 = 256 by norm_num, pow_succ, Nat.mod_mul, mul_comm (v / 256 ^ n % 256)]
    omega

theorem natOf_lt (bs : List Byte) : natOf bs < 256 ^ bs.length := by
  induction bs with
  | nil => simp [natOf]
  | cons b bs ih =>
    have hb : b.toNat < 256 := b.isLt
    rw [natOf_cons, List.length_cons, pow_succ]
    nlinarith

/-- A seconds count, written and read. -/
@[simp] theorem secOf_secField (t : Sec) : secOf (secField t) = t := by
  have h : t.toNat < 2 ^ 48 := t.isLt
  have : natOf (secField t) = t.toNat := by
    rw [secField, natOf_beBytes]; exact Nat.mod_eq_of_lt (by norm_num at h ⊢; omega)
  simp [secOf, this]

/-- A signed number that fits its width, written and read. -/
theorem intOf_sField (n : Nat) (v : Int) (h : -(256 : Int) ^ n ≤ 2 * v) (h' : 2 * v < (256 : Int) ^ n) :
    intOf (sField n v) = v := by
  have hp : (0 : Int) < 256 ^ n := by positivity
  have hm0 : 0 ≤ v % 256 ^ n := Int.emod_nonneg _ (by omega)
  have hm1 : v % 256 ^ n < 256 ^ n := Int.emod_lt_of_pos _ hp
  have hnat : natOf (sField n v) = (v % 256 ^ n).toNat := by
    rw [sField]
    simp only [h, h', and_self, if_true, natOf_beBytes]
    apply Nat.mod_eq_of_lt
    zify
    rw [Int.toNat_of_nonneg hm0]; exact hm1
  have hz : ((v % 256 ^ n).toNat : Int) = v % 256 ^ n := Int.toNat_of_nonneg hm0
  unfold intOf
  rw [hnat]
  simp only [sField_length]
  rcases le_or_gt 0 v with hv | hv
  · have e : v % 256 ^ n = v := Int.emod_eq_of_lt hv (by omega)
    have : 2 * (v % 256 ^ n).toNat < 256 ^ n := by zify; rw [hz, e]; exact h'
    rw [if_pos this, hz, e]
  · have e : v % 256 ^ n = v + 256 ^ n := by
      rw [← Int.add_emod_right, Int.emod_eq_of_lt] <;> omega
    have : ¬ 2 * (v % 256 ^ n).toNat < 256 ^ n := by zify; rw [hz, e]; omega
    rw [if_neg this, hz, e]; omega

end Sys2Proof
end

