-- ==== Sys2Proof/Laws/State.lean ====
section
/-! SUPPORT. One lemma for each field of State that an update leaves as it is, and for reading a family's member after it was replaced. -/

set_option Elab.async false

namespace Sys2Proof.Machine

open Sys2Proof

/-! ### advanceTo -/

@[simp] theorem State.advanceTo_running (s : State) (t : Nat) : (s.advanceTo t).running = s.running := rfl
@[simp] theorem State.advanceTo_rfe (s : State) (t : Nat) : (s.advanceTo t).rfe = s.rfe := rfl
@[simp] theorem State.advanceTo_rqu (s : State) (t : Nat) : (s.advanceTo t).rqu = s.rqu := rfl
@[simp] theorem State.advanceTo_dlp (s : State) (t : Nat) : (s.advanceTo t).dlp = s.dlp := rfl
@[simp] theorem State.advanceTo_lrn (s : State) (t : Nat) : (s.advanceTo t).lrn = s.lrn := rfl
@[simp] theorem State.advanceTo_hop (s : State) (t : Nat) : (s.advanceTo t).hop = s.hop := rfl
@[simp] theorem State.advanceTo_sdc (s : State) (t : Nat) : (s.advanceTo t).sdc = s.sdc := rfl
@[simp] theorem State.advanceTo_ssq (s : State) (t : Nat) : (s.advanceTo t).ssq = s.ssq := rfl
@[simp] theorem State.advanceTo_oc (s : State) (t : Nat) : (s.advanceTo t).oc = s.oc := rfl
@[simp] theorem State.advanceTo_tp (s : State) (t : Nat) : (s.advanceTo t).tp = s.tp := rfl
@[simp] theorem State.advanceTo_sst (s : State) (t : Nat) : (s.advanceTo t).sst = s.sst := rfl
@[simp] theorem State.advanceTo_stc (s : State) (t : Nat) : (s.advanceTo t).stc = s.stc := rfl
@[simp] theorem State.advanceTo_flash (s : State) (t : Nat) : (s.advanceTo t).flash = s.flash := rfl
@[simp] theorem State.advanceTo_pending (s : State) (t : Nat) : (s.advanceTo t).pending = s.pending := rfl

/-! ### onRecord -/

@[simp] theorem State.onRecord_running (s : State) (r : Ref) (f : RefRecord → RefRecord) : (s.onRecord r f).running = s.running := rfl
@[simp] theorem State.onRecord_tsu (s : State) (r : Ref) (f : RefRecord → RefRecord) : (s.onRecord r f).tsu = s.tsu := rfl
@[simp] theorem State.onRecord_rfe (s : State) (r : Ref) (f : RefRecord → RefRecord) : (s.onRecord r f).rfe = s.rfe := rfl
@[simp] theorem State.onRecord_dlp (s : State) (r : Ref) (f : RefRecord → RefRecord) : (s.onRecord r f).dlp = s.dlp := rfl
@[simp] theorem State.onRecord_lrn (s : State) (r : Ref) (f : RefRecord → RefRecord) : (s.onRecord r f).lrn = s.lrn := rfl
@[simp] theorem State.onRecord_hop (s : State) (r : Ref) (f : RefRecord → RefRecord) : (s.onRecord r f).hop = s.hop := rfl
@[simp] theorem State.onRecord_sdc (s : State) (r : Ref) (f : RefRecord → RefRecord) : (s.onRecord r f).sdc = s.sdc := rfl
@[simp] theorem State.onRecord_ssq (s : State) (r : Ref) (f : RefRecord → RefRecord) : (s.onRecord r f).ssq = s.ssq := rfl
@[simp] theorem State.onRecord_oc (s : State) (r : Ref) (f : RefRecord → RefRecord) : (s.onRecord r f).oc = s.oc := rfl
@[simp] theorem State.onRecord_tp (s : State) (r : Ref) (f : RefRecord → RefRecord) : (s.onRecord r f).tp = s.tp := rfl
@[simp] theorem State.onRecord_sst (s : State) (r : Ref) (f : RefRecord → RefRecord) : (s.onRecord r f).sst = s.sst := rfl
@[simp] theorem State.onRecord_stc (s : State) (r : Ref) (f : RefRecord → RefRecord) : (s.onRecord r f).stc = s.stc := rfl
@[simp] theorem State.onRecord_flash (s : State) (r : Ref) (f : RefRecord → RefRecord) : (s.onRecord r f).flash = s.flash := rfl
@[simp] theorem State.onRecord_pending (s : State) (r : Ref) (f : RefRecord → RefRecord) : (s.onRecord r f).pending = s.pending := rfl

/-! ### onPair -/

@[simp] theorem State.onPair_running (s : State) (a b : PhaseRef) (f : PairEntry → PairEntry) : (s.onPair a b f).running = s.running := rfl
@[simp] theorem State.onPair_tsu (s : State) (a b : PhaseRef) (f : PairEntry → PairEntry) : (s.onPair a b f).tsu = s.tsu := rfl
@[simp] theorem State.onPair_rfe (s : State) (a b : PhaseRef) (f : PairEntry → PairEntry) : (s.onPair a b f).rfe = s.rfe := rfl
@[simp] theorem State.onPair_dlp (s : State) (a b : PhaseRef) (f : PairEntry → PairEntry) : (s.onPair a b f).dlp = s.dlp := rfl
@[simp] theorem State.onPair_lrn (s : State) (a b : PhaseRef) (f : PairEntry → PairEntry) : (s.onPair a b f).lrn = s.lrn := rfl
@[simp] theorem State.onPair_hop (s : State) (a b : PhaseRef) (f : PairEntry → PairEntry) : (s.onPair a b f).hop = s.hop := rfl
@[simp] theorem State.onPair_sdc (s : State) (a b : PhaseRef) (f : PairEntry → PairEntry) : (s.onPair a b f).sdc = s.sdc := rfl
@[simp] theorem State.onPair_ssq (s : State) (a b : PhaseRef) (f : PairEntry → PairEntry) : (s.onPair a b f).ssq = s.ssq := rfl
@[simp] theorem State.onPair_oc (s : State) (a b : PhaseRef) (f : PairEntry → PairEntry) : (s.onPair a b f).oc = s.oc := rfl
@[simp] theorem State.onPair_tp (s : State) (a b : PhaseRef) (f : PairEntry → PairEntry) : (s.onPair a b f).tp = s.tp := rfl
@[simp] theorem State.onPair_sst (s : State) (a b : PhaseRef) (f : PairEntry → PairEntry) : (s.onPair a b f).sst = s.sst := rfl
@[simp] theorem State.onPair_stc (s : State) (a b : PhaseRef) (f : PairEntry → PairEntry) : (s.onPair a b f).stc = s.stc := rfl
@[simp] theorem State.onPair_flash (s : State) (a b : PhaseRef) (f : PairEntry → PairEntry) : (s.onPair a b f).flash = s.flash := rfl
@[simp] theorem State.onPair_pending (s : State) (a b : PhaseRef) (f : PairEntry → PairEntry) : (s.onPair a b f).pending = s.pending := rfl

/-! ### onPulse -/

@[simp] theorem State.onPulse_running (s : State) (p : PulseIn) (f : PulseInput → PulseInput) : (s.onPulse p f).running = s.running := rfl
@[simp] theorem State.onPulse_tsu (s : State) (p : PulseIn) (f : PulseInput → PulseInput) : (s.onPulse p f).tsu = s.tsu := rfl
@[simp] theorem State.onPulse_rqu (s : State) (p : PulseIn) (f : PulseInput → PulseInput) : (s.onPulse p f).rqu = s.rqu := rfl
@[simp] theorem State.onPulse_dlp (s : State) (p : PulseIn) (f : PulseInput → PulseInput) : (s.onPulse p f).dlp = s.dlp := rfl
@[simp] theorem State.onPulse_lrn (s : State) (p : PulseIn) (f : PulseInput → PulseInput) : (s.onPulse p f).lrn = s.lrn := rfl
@[simp] theorem State.onPulse_hop (s : State) (p : PulseIn) (f : PulseInput → PulseInput) : (s.onPulse p f).hop = s.hop := rfl
@[simp] theorem State.onPulse_sdc (s : State) (p : PulseIn) (f : PulseInput → PulseInput) : (s.onPulse p f).sdc = s.sdc := rfl
@[simp] theorem State.onPulse_ssq (s : State) (p : PulseIn) (f : PulseInput → PulseInput) : (s.onPulse p f).ssq = s.ssq := rfl
@[simp] theorem State.onPulse_oc (s : State) (p : PulseIn) (f : PulseInput → PulseInput) : (s.onPulse p f).oc = s.oc := rfl
@[simp] theorem State.onPulse_tp (s : State) (p : PulseIn) (f : PulseInput → PulseInput) : (s.onPulse p f).tp = s.tp := rfl
@[simp] theorem State.onPulse_sst (s : State) (p : PulseIn) (f : PulseInput → PulseInput) : (s.onPulse p f).sst = s.sst := rfl
@[simp] theorem State.onPulse_stc (s : State) (p : PulseIn) (f : PulseInput → PulseInput) : (s.onPulse p f).stc = s.stc := rfl
@[simp] theorem State.onPulse_flash (s : State) (p : PulseIn) (f : PulseInput → PulseInput) : (s.onPulse p f).flash = s.flash := rfl
@[simp] theorem State.onPulse_pending (s : State) (p : PulseIn) (f : PulseInput → PulseInput) : (s.onPulse p f).pending = s.pending := rfl

/-! ### onWindow -/

@[simp] theorem State.onWindow_running (s : State) (k : Port) (f : Window → Window) : (s.onWindow k f).running = s.running := rfl
@[simp] theorem State.onWindow_tsu (s : State) (k : Port) (f : Window → Window) : (s.onWindow k f).tsu = s.tsu := rfl
@[simp] theorem State.onWindow_rqu (s : State) (k : Port) (f : Window → Window) : (s.onWindow k f).rqu = s.rqu := rfl
@[simp] theorem State.onWindow_dlp (s : State) (k : Port) (f : Window → Window) : (s.onWindow k f).dlp = s.dlp := rfl
@[simp] theorem State.onWindow_lrn (s : State) (k : Port) (f : Window → Window) : (s.onWindow k f).lrn = s.lrn := rfl
@[simp] theorem State.onWindow_hop (s : State) (k : Port) (f : Window → Window) : (s.onWindow k f).hop = s.hop := rfl
@[simp] theorem State.onWindow_sdc (s : State) (k : Port) (f : Window → Window) : (s.onWindow k f).sdc = s.sdc := rfl
@[simp] theorem State.onWindow_ssq (s : State) (k : Port) (f : Window → Window) : (s.onWindow k f).ssq = s.ssq := rfl
@[simp] theorem State.onWindow_oc (s : State) (k : Port) (f : Window → Window) : (s.onWindow k f).oc = s.oc := rfl
@[simp] theorem State.onWindow_tp (s : State) (k : Port) (f : Window → Window) : (s.onWindow k f).tp = s.tp := rfl
@[simp] theorem State.onWindow_sst (s : State) (k : Port) (f : Window → Window) : (s.onWindow k f).sst = s.sst := rfl
@[simp] theorem State.onWindow_stc (s : State) (k : Port) (f : Window → Window) : (s.onWindow k f).stc = s.stc := rfl
@[simp] theorem State.onWindow_flash (s : State) (k : Port) (f : Window → Window) : (s.onWindow k f).flash = s.flash := rfl
@[simp] theorem State.onWindow_pending (s : State) (k : Port) (f : Window → Window) : (s.onWindow k f).pending = s.pending := rfl

/-! ### onChannel -/

@[simp] theorem State.onChannel_running (s : State) (k : Port) (f : Channel → Channel) : (s.onChannel k f).running = s.running := rfl
@[simp] theorem State.onChannel_tsu (s : State) (k : Port) (f : Channel → Channel) : (s.onChannel k f).tsu = s.tsu := rfl
@[simp] theorem State.onChannel_rfe (s : State) (k : Port) (f : Channel → Channel) : (s.onChannel k f).rfe = s.rfe := rfl
@[simp] theorem State.onChannel_rqu (s : State) (k : Port) (f : Channel → Channel) : (s.onChannel k f).rqu = s.rqu := rfl
@[simp] theorem State.onChannel_dlp (s : State) (k : Port) (f : Channel → Channel) : (s.onChannel k f).dlp = s.dlp := rfl
@[simp] theorem State.onChannel_lrn (s : State) (k : Port) (f : Channel → Channel) : (s.onChannel k f).lrn = s.lrn := rfl
@[simp] theorem State.onChannel_hop (s : State) (k : Port) (f : Channel → Channel) : (s.onChannel k f).hop = s.hop := rfl
@[simp] theorem State.onChannel_sdc (s : State) (k : Port) (f : Channel → Channel) : (s.onChannel k f).sdc = s.sdc := rfl
@[simp] theorem State.onChannel_ssq (s : State) (k : Port) (f : Channel → Channel) : (s.onChannel k f).ssq = s.ssq := rfl
@[simp] theorem State.onChannel_tp (s : State) (k : Port) (f : Channel → Channel) : (s.onChannel k f).tp = s.tp := rfl
@[simp] theorem State.onChannel_sst (s : State) (k : Port) (f : Channel → Channel) : (s.onChannel k f).sst = s.sst := rfl
@[simp] theorem State.onChannel_stc (s : State) (k : Port) (f : Channel → Channel) : (s.onChannel k f).stc = s.stc := rfl
@[simp] theorem State.onChannel_flash (s : State) (k : Port) (f : Channel → Channel) : (s.onChannel k f).flash = s.flash := rfl
@[simp] theorem State.onChannel_pending (s : State) (k : Port) (f : Channel → Channel) : (s.onChannel k f).pending = s.pending := rfl

/-! ### onPort -/

@[simp] theorem State.onPort_running (s : State) (k : Port) (f : TenantPort → TenantPort) : (s.onPort k f).running = s.running := rfl
@[simp] theorem State.onPort_tsu (s : State) (k : Port) (f : TenantPort → TenantPort) : (s.onPort k f).tsu = s.tsu := rfl
@[simp] theorem State.onPort_rfe (s : State) (k : Port) (f : TenantPort → TenantPort) : (s.onPort k f).rfe = s.rfe := rfl
@[simp] theorem State.onPort_rqu (s : State) (k : Port) (f : TenantPort → TenantPort) : (s.onPort k f).rqu = s.rqu := rfl
@[simp] theorem State.onPort_dlp (s : State) (k : Port) (f : TenantPort → TenantPort) : (s.onPort k f).dlp = s.dlp := rfl
@[simp] theorem State.onPort_lrn (s : State) (k : Port) (f : TenantPort → TenantPort) : (s.onPort k f).lrn = s.lrn := rfl
@[simp] theorem State.onPort_hop (s : State) (k : Port) (f : TenantPort → TenantPort) : (s.onPort k f).hop = s.hop := rfl
@[simp] theorem State.onPort_sdc (s : State) (k : Port) (f : TenantPort → TenantPort) : (s.onPort k f).sdc = s.sdc := rfl
@[simp] theorem State.onPort_ssq (s : State) (k : Port) (f : TenantPort → TenantPort) : (s.onPort k f).ssq = s.ssq := rfl
@[simp] theorem State.onPort_oc (s : State) (k : Port) (f : TenantPort → TenantPort) : (s.onPort k f).oc = s.oc := rfl
@[simp] theorem State.onPort_sst (s : State) (k : Port) (f : TenantPort → TenantPort) : (s.onPort k f).sst = s.sst := rfl
@[simp] theorem State.onPort_stc (s : State) (k : Port) (f : TenantPort → TenantPort) : (s.onPort k f).stc = s.stc := rfl
@[simp] theorem State.onPort_flash (s : State) (k : Port) (f : TenantPort → TenantPort) : (s.onPort k f).flash = s.flash := rfl
@[simp] theorem State.onPort_pending (s : State) (k : Port) (f : TenantPort → TenantPort) : (s.onPort k f).pending = s.pending := rfl

/-! ### notice -/

@[simp] theorem State.notice_running (s : State) (k : Port) (n : NoticeKind) (x : List Byte) : (s.notice k n x).running = s.running := rfl
@[simp] theorem State.notice_tsu (s : State) (k : Port) (n : NoticeKind) (x : List Byte) : (s.notice k n x).tsu = s.tsu := rfl
@[simp] theorem State.notice_rfe (s : State) (k : Port) (n : NoticeKind) (x : List Byte) : (s.notice k n x).rfe = s.rfe := rfl
@[simp] theorem State.notice_rqu (s : State) (k : Port) (n : NoticeKind) (x : List Byte) : (s.notice k n x).rqu = s.rqu := rfl
@[simp] theorem State.notice_dlp (s : State) (k : Port) (n : NoticeKind) (x : List Byte) : (s.notice k n x).dlp = s.dlp := rfl
@[simp] theorem State.notice_lrn (s : State) (k : Port) (n : NoticeKind) (x : List Byte) : (s.notice k n x).lrn = s.lrn := rfl
@[simp] theorem State.notice_hop (s : State) (k : Port) (n : NoticeKind) (x : List Byte) : (s.notice k n x).hop = s.hop := rfl
@[simp] theorem State.notice_sdc (s : State) (k : Port) (n : NoticeKind) (x : List Byte) : (s.notice k n x).sdc = s.sdc := rfl
@[simp] theorem State.notice_ssq (s : State) (k : Port) (n : NoticeKind) (x : List Byte) : (s.notice k n x).ssq = s.ssq := rfl
@[simp] theorem State.notice_oc (s : State) (k : Port) (n : NoticeKind) (x : List Byte) : (s.notice k n x).oc = s.oc := rfl
@[simp] theorem State.notice_sst (s : State) (k : Port) (n : NoticeKind) (x : List Byte) : (s.notice k n x).sst = s.sst := rfl
@[simp] theorem State.notice_stc (s : State) (k : Port) (n : NoticeKind) (x : List Byte) : (s.notice k n x).stc = s.stc := rfl
@[simp] theorem State.notice_flash (s : State) (k : Port) (n : NoticeKind) (x : List Byte) : (s.notice k n x).flash = s.flash := rfl
@[simp] theorem State.notice_pending (s : State) (k : Port) (n : NoticeKind) (x : List Byte) : (s.notice k n x).pending = s.pending := rfl

/-! ### noticeAll -/

@[simp] theorem State.noticeAll_running (s : State) (n : NoticeKind) (x : List Byte) : (s.noticeAll n x).running = s.running := rfl
@[simp] theorem State.noticeAll_tsu (s : State) (n : NoticeKind) (x : List Byte) : (s.noticeAll n x).tsu = s.tsu := rfl
@[simp] theorem State.noticeAll_rfe (s : State) (n : NoticeKind) (x : List Byte) : (s.noticeAll n x).rfe = s.rfe := rfl
@[simp] theorem State.noticeAll_rqu (s : State) (n : NoticeKind) (x : List Byte) : (s.noticeAll n x).rqu = s.rqu := rfl
@[simp] theorem State.noticeAll_dlp (s : State) (n : NoticeKind) (x : List Byte) : (s.noticeAll n x).dlp = s.dlp := rfl
@[simp] theorem State.noticeAll_lrn (s : State) (n : NoticeKind) (x : List Byte) : (s.noticeAll n x).lrn = s.lrn := rfl
@[simp] theorem State.noticeAll_hop (s : State) (n : NoticeKind) (x : List Byte) : (s.noticeAll n x).hop = s.hop := rfl
@[simp] theorem State.noticeAll_sdc (s : State) (n : NoticeKind) (x : List Byte) : (s.noticeAll n x).sdc = s.sdc := rfl
@[simp] theorem State.noticeAll_ssq (s : State) (n : NoticeKind) (x : List Byte) : (s.noticeAll n x).ssq = s.ssq := rfl
@[simp] theorem State.noticeAll_oc (s : State) (n : NoticeKind) (x : List Byte) : (s.noticeAll n x).oc = s.oc := rfl
@[simp] theorem State.noticeAll_sst (s : State) (n : NoticeKind) (x : List Byte) : (s.noticeAll n x).sst = s.sst := rfl
@[simp] theorem State.noticeAll_stc (s : State) (n : NoticeKind) (x : List Byte) : (s.noticeAll n x).stc = s.stc := rfl
@[simp] theorem State.noticeAll_flash (s : State) (n : NoticeKind) (x : List Byte) : (s.noticeAll n x).flash = s.flash := rfl
@[simp] theorem State.noticeAll_pending (s : State) (n : NoticeKind) (x : List Byte) : (s.noticeAll n x).pending = s.pending := rfl

/-! ### respond -/

@[simp] theorem State.respond_running (s : State) (k : Port) (n : Nat) (x : List Byte) : (s.respond k n x).running = s.running := rfl
@[simp] theorem State.respond_tsu (s : State) (k : Port) (n : Nat) (x : List Byte) : (s.respond k n x).tsu = s.tsu := rfl
@[simp] theorem State.respond_rfe (s : State) (k : Port) (n : Nat) (x : List Byte) : (s.respond k n x).rfe = s.rfe := rfl
@[simp] theorem State.respond_rqu (s : State) (k : Port) (n : Nat) (x : List Byte) : (s.respond k n x).rqu = s.rqu := rfl
@[simp] theorem State.respond_dlp (s : State) (k : Port) (n : Nat) (x : List Byte) : (s.respond k n x).dlp = s.dlp := rfl
@[simp] theorem State.respond_lrn (s : State) (k : Port) (n : Nat) (x : List Byte) : (s.respond k n x).lrn = s.lrn := rfl
@[simp] theorem State.respond_hop (s : State) (k : Port) (n : Nat) (x : List Byte) : (s.respond k n x).hop = s.hop := rfl
@[simp] theorem State.respond_sdc (s : State) (k : Port) (n : Nat) (x : List Byte) : (s.respond k n x).sdc = s.sdc := rfl
@[simp] theorem State.respond_ssq (s : State) (k : Port) (n : Nat) (x : List Byte) : (s.respond k n x).ssq = s.ssq := rfl
@[simp] theorem State.respond_oc (s : State) (k : Port) (n : Nat) (x : List Byte) : (s.respond k n x).oc = s.oc := rfl
@[simp] theorem State.respond_sst (s : State) (k : Port) (n : Nat) (x : List Byte) : (s.respond k n x).sst = s.sst := rfl
@[simp] theorem State.respond_stc (s : State) (k : Port) (n : Nat) (x : List Byte) : (s.respond k n x).stc = s.stc := rfl
@[simp] theorem State.respond_flash (s : State) (k : Port) (n : Nat) (x : List Byte) : (s.respond k n x).flash = s.flash := rfl
@[simp] theorem State.respond_pending (s : State) (k : Port) (n : Nat) (x : List Byte) : (s.respond k n x).pending = s.pending := rfl

/-! ### flushWindow -/

@[simp] theorem State.flushWindow_running (s : State) (k : Port) : (s.flushWindow k).running = s.running := rfl
@[simp] theorem State.flushWindow_tsu (s : State) (k : Port) : (s.flushWindow k).tsu = s.tsu := rfl
@[simp] theorem State.flushWindow_rqu (s : State) (k : Port) : (s.flushWindow k).rqu = s.rqu := rfl
@[simp] theorem State.flushWindow_dlp (s : State) (k : Port) : (s.flushWindow k).dlp = s.dlp := rfl
@[simp] theorem State.flushWindow_lrn (s : State) (k : Port) : (s.flushWindow k).lrn = s.lrn := rfl
@[simp] theorem State.flushWindow_hop (s : State) (k : Port) : (s.flushWindow k).hop = s.hop := rfl
@[simp] theorem State.flushWindow_sdc (s : State) (k : Port) : (s.flushWindow k).sdc = s.sdc := rfl
@[simp] theorem State.flushWindow_ssq (s : State) (k : Port) : (s.flushWindow k).ssq = s.ssq := rfl
@[simp] theorem State.flushWindow_oc (s : State) (k : Port) : (s.flushWindow k).oc = s.oc := rfl
@[simp] theorem State.flushWindow_tp (s : State) (k : Port) : (s.flushWindow k).tp = s.tp := rfl
@[simp] theorem State.flushWindow_sst (s : State) (k : Port) : (s.flushWindow k).sst = s.sst := rfl
@[simp] theorem State.flushWindow_stc (s : State) (k : Port) : (s.flushWindow k).stc = s.stc := rfl
@[simp] theorem State.flushWindow_flash (s : State) (k : Port) : (s.flushWindow k).flash = s.flash := rfl
@[simp] theorem State.flushWindow_pending (s : State) (k : Port) : (s.flushWindow k).pending = s.pending := rfl

/-! ### stopTimer -/

@[simp] theorem State.stopTimer_running (s : State) (k : Port) : (s.stopTimer k).running = s.running := rfl
@[simp] theorem State.stopTimer_tsu (s : State) (k : Port) : (s.stopTimer k).tsu = s.tsu := rfl
@[simp] theorem State.stopTimer_rqu (s : State) (k : Port) : (s.stopTimer k).rqu = s.rqu := rfl
@[simp] theorem State.stopTimer_dlp (s : State) (k : Port) : (s.stopTimer k).dlp = s.dlp := rfl
@[simp] theorem State.stopTimer_lrn (s : State) (k : Port) : (s.stopTimer k).lrn = s.lrn := rfl
@[simp] theorem State.stopTimer_hop (s : State) (k : Port) : (s.stopTimer k).hop = s.hop := rfl
@[simp] theorem State.stopTimer_sdc (s : State) (k : Port) : (s.stopTimer k).sdc = s.sdc := rfl
@[simp] theorem State.stopTimer_ssq (s : State) (k : Port) : (s.stopTimer k).ssq = s.ssq := rfl
@[simp] theorem State.stopTimer_oc (s : State) (k : Port) : (s.stopTimer k).oc = s.oc := rfl
@[simp] theorem State.stopTimer_tp (s : State) (k : Port) : (s.stopTimer k).tp = s.tp := rfl
@[simp] theorem State.stopTimer_sst (s : State) (k : Port) : (s.stopTimer k).sst = s.sst := rfl
@[simp] theorem State.stopTimer_stc (s : State) (k : Port) : (s.stopTimer k).stc = s.stc := rfl
@[simp] theorem State.stopTimer_flash (s : State) (k : Port) : (s.stopTimer k).flash = s.flash := rfl
@[simp] theorem State.stopTimer_pending (s : State) (k : Port) : (s.stopTimer k).pending = s.pending := rfl

/-! ### emptyWindow -/

@[simp] theorem State.emptyWindow_running (s : State) (k : Port) : (s.emptyWindow k).running = s.running := rfl
@[simp] theorem State.emptyWindow_tsu (s : State) (k : Port) : (s.emptyWindow k).tsu = s.tsu := rfl
@[simp] theorem State.emptyWindow_rqu (s : State) (k : Port) : (s.emptyWindow k).rqu = s.rqu := rfl
@[simp] theorem State.emptyWindow_dlp (s : State) (k : Port) : (s.emptyWindow k).dlp = s.dlp := rfl
@[simp] theorem State.emptyWindow_lrn (s : State) (k : Port) : (s.emptyWindow k).lrn = s.lrn := rfl
@[simp] theorem State.emptyWindow_hop (s : State) (k : Port) : (s.emptyWindow k).hop = s.hop := rfl
@[simp] theorem State.emptyWindow_sdc (s : State) (k : Port) : (s.emptyWindow k).sdc = s.sdc := rfl
@[simp] theorem State.emptyWindow_ssq (s : State) (k : Port) : (s.emptyWindow k).ssq = s.ssq := rfl
@[simp] theorem State.emptyWindow_oc (s : State) (k : Port) : (s.emptyWindow k).oc = s.oc := rfl
@[simp] theorem State.emptyWindow_tp (s : State) (k : Port) : (s.emptyWindow k).tp = s.tp := rfl
@[simp] theorem State.emptyWindow_sst (s : State) (k : Port) : (s.emptyWindow k).sst = s.sst := rfl
@[simp] theorem State.emptyWindow_stc (s : State) (k : Port) : (s.emptyWindow k).stc = s.stc := rfl
@[simp] theorem State.emptyWindow_flash (s : State) (k : Port) : (s.emptyWindow k).flash = s.flash := rfl
@[simp] theorem State.emptyWindow_pending (s : State) (k : Port) : (s.emptyWindow k).pending = s.pending := rfl

/-! ### hold -/

@[simp] theorem State.hold_running (s : State) (r : PhaseRef) (x : PhaseEstimate) (g : Bool) : (s.hold r x g).running = s.running := rfl
@[simp] theorem State.hold_tsu (s : State) (r : PhaseRef) (x : PhaseEstimate) (g : Bool) : (s.hold r x g).tsu = s.tsu := rfl
@[simp] theorem State.hold_rfe (s : State) (r : PhaseRef) (x : PhaseEstimate) (g : Bool) : (s.hold r x g).rfe = s.rfe := rfl
@[simp] theorem State.hold_dlp (s : State) (r : PhaseRef) (x : PhaseEstimate) (g : Bool) : (s.hold r x g).dlp = s.dlp := rfl
@[simp] theorem State.hold_lrn (s : State) (r : PhaseRef) (x : PhaseEstimate) (g : Bool) : (s.hold r x g).lrn = s.lrn := rfl
@[simp] theorem State.hold_hop (s : State) (r : PhaseRef) (x : PhaseEstimate) (g : Bool) : (s.hold r x g).hop = s.hop := rfl
@[simp] theorem State.hold_sdc (s : State) (r : PhaseRef) (x : PhaseEstimate) (g : Bool) : (s.hold r x g).sdc = s.sdc := rfl
@[simp] theorem State.hold_ssq (s : State) (r : PhaseRef) (x : PhaseEstimate) (g : Bool) : (s.hold r x g).ssq = s.ssq := rfl
@[simp] theorem State.hold_oc (s : State) (r : PhaseRef) (x : PhaseEstimate) (g : Bool) : (s.hold r x g).oc = s.oc := rfl
@[simp] theorem State.hold_tp (s : State) (r : PhaseRef) (x : PhaseEstimate) (g : Bool) : (s.hold r x g).tp = s.tp := rfl
@[simp] theorem State.hold_sst (s : State) (r : PhaseRef) (x : PhaseEstimate) (g : Bool) : (s.hold r x g).sst = s.sst := rfl
@[simp] theorem State.hold_stc (s : State) (r : PhaseRef) (x : PhaseEstimate) (g : Bool) : (s.hold r x g).stc = s.stc := rfl
@[simp] theorem State.hold_flash (s : State) (r : PhaseRef) (x : PhaseEstimate) (g : Bool) : (s.hold r x g).flash = s.flash := rfl
@[simp] theorem State.hold_pending (s : State) (r : PhaseRef) (x : PhaseEstimate) (g : Bool) : (s.hold r x g).pending = s.pending := rfl

/-! ### keepEstimate -/

@[simp] theorem State.keepEstimate_running (s : State) (r : Ref) (v : Int) (t : Time) (w : Option WindowInfo) : (s.keepEstimate r v t w).running = s.running := rfl
@[simp] theorem State.keepEstimate_tsu (s : State) (r : Ref) (v : Int) (t : Time) (w : Option WindowInfo) : (s.keepEstimate r v t w).tsu = s.tsu := rfl
@[simp] theorem State.keepEstimate_rfe (s : State) (r : Ref) (v : Int) (t : Time) (w : Option WindowInfo) : (s.keepEstimate r v t w).rfe = s.rfe := rfl
@[simp] theorem State.keepEstimate_dlp (s : State) (r : Ref) (v : Int) (t : Time) (w : Option WindowInfo) : (s.keepEstimate r v t w).dlp = s.dlp := rfl
@[simp] theorem State.keepEstimate_lrn (s : State) (r : Ref) (v : Int) (t : Time) (w : Option WindowInfo) : (s.keepEstimate r v t w).lrn = s.lrn := rfl
@[simp] theorem State.keepEstimate_hop (s : State) (r : Ref) (v : Int) (t : Time) (w : Option WindowInfo) : (s.keepEstimate r v t w).hop = s.hop := rfl
@[simp] theorem State.keepEstimate_sdc (s : State) (r : Ref) (v : Int) (t : Time) (w : Option WindowInfo) : (s.keepEstimate r v t w).sdc = s.sdc := rfl
@[simp] theorem State.keepEstimate_ssq (s : State) (r : Ref) (v : Int) (t : Time) (w : Option WindowInfo) : (s.keepEstimate r v t w).ssq = s.ssq := rfl
@[simp] theorem State.keepEstimate_oc (s : State) (r : Ref) (v : Int) (t : Time) (w : Option WindowInfo) : (s.keepEstimate r v t w).oc = s.oc := rfl
@[simp] theorem State.keepEstimate_tp (s : State) (r : Ref) (v : Int) (t : Time) (w : Option WindowInfo) : (s.keepEstimate r v t w).tp = s.tp := rfl
@[simp] theorem State.keepEstimate_sst (s : State) (r : Ref) (v : Int) (t : Time) (w : Option WindowInfo) : (s.keepEstimate r v t w).sst = s.sst := rfl
@[simp] theorem State.keepEstimate_stc (s : State) (r : Ref) (v : Int) (t : Time) (w : Option WindowInfo) : (s.keepEstimate r v t w).stc = s.stc := rfl
@[simp] theorem State.keepEstimate_flash (s : State) (r : Ref) (v : Int) (t : Time) (w : Option WindowInfo) : (s.keepEstimate r v t w).flash = s.flash := rfl
@[simp] theorem State.keepEstimate_pending (s : State) (r : Ref) (v : Int) (t : Time) (w : Option WindowInfo) : (s.keepEstimate r v t w).pending = s.pending := rfl

/-! ### zeroCounts -/

@[simp] theorem State.zeroCounts_running (s : State) (r : Ref) : (s.zeroCounts r).running = s.running := rfl
@[simp] theorem State.zeroCounts_tsu (s : State) (r : Ref) : (s.zeroCounts r).tsu = s.tsu := rfl
@[simp] theorem State.zeroCounts_rfe (s : State) (r : Ref) : (s.zeroCounts r).rfe = s.rfe := rfl
@[simp] theorem State.zeroCounts_dlp (s : State) (r : Ref) : (s.zeroCounts r).dlp = s.dlp := rfl
@[simp] theorem State.zeroCounts_lrn (s : State) (r : Ref) : (s.zeroCounts r).lrn = s.lrn := rfl
@[simp] theorem State.zeroCounts_hop (s : State) (r : Ref) : (s.zeroCounts r).hop = s.hop := rfl
@[simp] theorem State.zeroCounts_sdc (s : State) (r : Ref) : (s.zeroCounts r).sdc = s.sdc := rfl
@[simp] theorem State.zeroCounts_ssq (s : State) (r : Ref) : (s.zeroCounts r).ssq = s.ssq := rfl
@[simp] theorem State.zeroCounts_oc (s : State) (r : Ref) : (s.zeroCounts r).oc = s.oc := rfl
@[simp] theorem State.zeroCounts_tp (s : State) (r : Ref) : (s.zeroCounts r).tp = s.tp := rfl
@[simp] theorem State.zeroCounts_sst (s : State) (r : Ref) : (s.zeroCounts r).sst = s.sst := rfl
@[simp] theorem State.zeroCounts_stc (s : State) (r : Ref) : (s.zeroCounts r).stc = s.stc := rfl
@[simp] theorem State.zeroCounts_flash (s : State) (r : Ref) : (s.zeroCounts r).flash = s.flash := rfl
@[simp] theorem State.zeroCounts_pending (s : State) (r : Ref) : (s.zeroCounts r).pending = s.pending := rfl

/-! ### closeInterval -/

@[simp] theorem State.closeInterval_running (s : State) (p : PulseIn) : (s.closeInterval p).running = s.running := rfl
@[simp] theorem State.closeInterval_tsu (s : State) (p : PulseIn) : (s.closeInterval p).tsu = s.tsu := rfl
@[simp] theorem State.closeInterval_rqu (s : State) (p : PulseIn) : (s.closeInterval p).rqu = s.rqu := rfl
@[simp] theorem State.closeInterval_dlp (s : State) (p : PulseIn) : (s.closeInterval p).dlp = s.dlp := rfl
@[simp] theorem State.closeInterval_lrn (s : State) (p : PulseIn) : (s.closeInterval p).lrn = s.lrn := rfl
@[simp] theorem State.closeInterval_hop (s : State) (p : PulseIn) : (s.closeInterval p).hop = s.hop := rfl
@[simp] theorem State.closeInterval_sdc (s : State) (p : PulseIn) : (s.closeInterval p).sdc = s.sdc := rfl
@[simp] theorem State.closeInterval_ssq (s : State) (p : PulseIn) : (s.closeInterval p).ssq = s.ssq := rfl
@[simp] theorem State.closeInterval_oc (s : State) (p : PulseIn) : (s.closeInterval p).oc = s.oc := rfl
@[simp] theorem State.closeInterval_tp (s : State) (p : PulseIn) : (s.closeInterval p).tp = s.tp := rfl
@[simp] theorem State.closeInterval_sst (s : State) (p : PulseIn) : (s.closeInterval p).sst = s.sst := rfl
@[simp] theorem State.closeInterval_stc (s : State) (p : PulseIn) : (s.closeInterval p).stc = s.stc := rfl
@[simp] theorem State.closeInterval_flash (s : State) (p : PulseIn) : (s.closeInterval p).flash = s.flash := rfl
@[simp] theorem State.closeInterval_pending (s : State) (p : PulseIn) : (s.closeInterval p).pending = s.pending := rfl

/-! ### closeOpenBin -/

@[simp] theorem State.closeOpenBin_running (s : State) : (s.closeOpenBin).running = s.running := rfl
@[simp] theorem State.closeOpenBin_tsu (s : State) : (s.closeOpenBin).tsu = s.tsu := rfl
@[simp] theorem State.closeOpenBin_rfe (s : State) : (s.closeOpenBin).rfe = s.rfe := rfl
@[simp] theorem State.closeOpenBin_rqu (s : State) : (s.closeOpenBin).rqu = s.rqu := rfl
@[simp] theorem State.closeOpenBin_dlp (s : State) : (s.closeOpenBin).dlp = s.dlp := rfl
@[simp] theorem State.closeOpenBin_hop (s : State) : (s.closeOpenBin).hop = s.hop := rfl
@[simp] theorem State.closeOpenBin_sdc (s : State) : (s.closeOpenBin).sdc = s.sdc := rfl
@[simp] theorem State.closeOpenBin_ssq (s : State) : (s.closeOpenBin).ssq = s.ssq := rfl
@[simp] theorem State.closeOpenBin_oc (s : State) : (s.closeOpenBin).oc = s.oc := rfl
@[simp] theorem State.closeOpenBin_tp (s : State) : (s.closeOpenBin).tp = s.tp := rfl
@[simp] theorem State.closeOpenBin_sst (s : State) : (s.closeOpenBin).sst = s.sst := rfl
@[simp] theorem State.closeOpenBin_stc (s : State) : (s.closeOpenBin).stc = s.stc := rfl
@[simp] theorem State.closeOpenBin_flash (s : State) : (s.closeOpenBin).flash = s.flash := rfl
@[simp] theorem State.closeOpenBin_pending (s : State) : (s.closeOpenBin).pending = s.pending := rfl

/-! ### recompute -/

@[simp] theorem State.recompute_running (s : State) : (s.recompute).running = s.running := rfl
@[simp] theorem State.recompute_tsu (s : State) : (s.recompute).tsu = s.tsu := rfl
@[simp] theorem State.recompute_rfe (s : State) : (s.recompute).rfe = s.rfe := rfl
@[simp] theorem State.recompute_rqu (s : State) : (s.recompute).rqu = s.rqu := rfl
@[simp] theorem State.recompute_dlp (s : State) : (s.recompute).dlp = s.dlp := rfl
@[simp] theorem State.recompute_hop (s : State) : (s.recompute).hop = s.hop := rfl
@[simp] theorem State.recompute_sdc (s : State) : (s.recompute).sdc = s.sdc := rfl
@[simp] theorem State.recompute_ssq (s : State) : (s.recompute).ssq = s.ssq := rfl
@[simp] theorem State.recompute_oc (s : State) : (s.recompute).oc = s.oc := rfl
@[simp] theorem State.recompute_tp (s : State) : (s.recompute).tp = s.tp := rfl
@[simp] theorem State.recompute_sst (s : State) : (s.recompute).sst = s.sst := rfl
@[simp] theorem State.recompute_stc (s : State) : (s.recompute).stc = s.stc := rfl
@[simp] theorem State.recompute_flash (s : State) : (s.recompute).flash = s.flash := rfl
@[simp] theorem State.recompute_pending (s : State) : (s.recompute).pending = s.pending := rfl

/-! ### steer -/

@[simp] theorem State.steer_running (s : State) : (s.steer).running = s.running := rfl
@[simp] theorem State.steer_tsu (s : State) : (s.steer).tsu = s.tsu := rfl
@[simp] theorem State.steer_rfe (s : State) : (s.steer).rfe = s.rfe := rfl
@[simp] theorem State.steer_rqu (s : State) : (s.steer).rqu = s.rqu := rfl
@[simp] theorem State.steer_dlp (s : State) : (s.steer).dlp = s.dlp := rfl
@[simp] theorem State.steer_lrn (s : State) : (s.steer).lrn = s.lrn := rfl
@[simp] theorem State.steer_hop (s : State) : (s.steer).hop = s.hop := rfl
@[simp] theorem State.steer_ssq (s : State) : (s.steer).ssq = s.ssq := rfl
@[simp] theorem State.steer_oc (s : State) : (s.steer).oc = s.oc := rfl
@[simp] theorem State.steer_tp (s : State) : (s.steer).tp = s.tp := rfl
@[simp] theorem State.steer_sst (s : State) : (s.steer).sst = s.sst := rfl
@[simp] theorem State.steer_stc (s : State) : (s.steer).stc = s.stc := rfl
@[simp] theorem State.steer_flash (s : State) : (s.steer).flash = s.flash := rfl
@[simp] theorem State.steer_pending (s : State) : (s.steer).pending = s.pending := rfl

/-! ### derive -/

@[simp] theorem State.derive_running (s : State) : (s.derive).running = s.running := rfl
@[simp] theorem State.derive_rfe (s : State) : (s.derive).rfe = s.rfe := rfl
@[simp] theorem State.derive_rqu (s : State) : (s.derive).rqu = s.rqu := rfl
@[simp] theorem State.derive_dlp (s : State) : (s.derive).dlp = s.dlp := rfl
@[simp] theorem State.derive_lrn (s : State) : (s.derive).lrn = s.lrn := rfl
@[simp] theorem State.derive_hop (s : State) : (s.derive).hop = s.hop := rfl
@[simp] theorem State.derive_sdc (s : State) : (s.derive).sdc = s.sdc := rfl
@[simp] theorem State.derive_ssq (s : State) : (s.derive).ssq = s.ssq := rfl
@[simp] theorem State.derive_oc (s : State) : (s.derive).oc = s.oc := rfl
@[simp] theorem State.derive_tp (s : State) : (s.derive).tp = s.tp := rfl
@[simp] theorem State.derive_sst (s : State) : (s.derive).sst = s.sst := rfl
@[simp] theorem State.derive_stc (s : State) : (s.derive).stc = s.stc := rfl
@[simp] theorem State.derive_flash (s : State) : (s.derive).flash = s.flash := rfl
@[simp] theorem State.derive_pending (s : State) : (s.derive).pending = s.pending := rfl

/-! ### restartEpochs -/

@[simp] theorem State.restartEpochs_running (s : State) : (s.restartEpochs).running = s.running := rfl
@[simp] theorem State.restartEpochs_tsu (s : State) : (s.restartEpochs).tsu = s.tsu := rfl
@[simp] theorem State.restartEpochs_rfe (s : State) : (s.restartEpochs).rfe = s.rfe := rfl
@[simp] theorem State.restartEpochs_rqu (s : State) : (s.restartEpochs).rqu = s.rqu := rfl
@[simp] theorem State.restartEpochs_dlp (s : State) : (s.restartEpochs).dlp = s.dlp := rfl
@[simp] theorem State.restartEpochs_lrn (s : State) : (s.restartEpochs).lrn = s.lrn := rfl
@[simp] theorem State.restartEpochs_sdc (s : State) : (s.restartEpochs).sdc = s.sdc := rfl
@[simp] theorem State.restartEpochs_ssq (s : State) : (s.restartEpochs).ssq = s.ssq := rfl
@[simp] theorem State.restartEpochs_oc (s : State) : (s.restartEpochs).oc = s.oc := rfl
@[simp] theorem State.restartEpochs_tp (s : State) : (s.restartEpochs).tp = s.tp := rfl
@[simp] theorem State.restartEpochs_sst (s : State) : (s.restartEpochs).sst = s.sst := rfl
@[simp] theorem State.restartEpochs_stc (s : State) : (s.restartEpochs).stc = s.stc := rfl
@[simp] theorem State.restartEpochs_flash (s : State) : (s.restartEpochs).flash = s.flash := rfl
@[simp] theorem State.restartEpochs_pending (s : State) : (s.restartEpochs).pending = s.pending := rfl

/-! ### clearModel -/

@[simp] theorem State.clearModel_running (s : State) : (s.clearModel).running = s.running := rfl
@[simp] theorem State.clearModel_tsu (s : State) : (s.clearModel).tsu = s.tsu := rfl
@[simp] theorem State.clearModel_rfe (s : State) : (s.clearModel).rfe = s.rfe := rfl
@[simp] theorem State.clearModel_rqu (s : State) : (s.clearModel).rqu = s.rqu := rfl
@[simp] theorem State.clearModel_dlp (s : State) : (s.clearModel).dlp = s.dlp := rfl
@[simp] theorem State.clearModel_sdc (s : State) : (s.clearModel).sdc = s.sdc := rfl
@[simp] theorem State.clearModel_ssq (s : State) : (s.clearModel).ssq = s.ssq := rfl
@[simp] theorem State.clearModel_oc (s : State) : (s.clearModel).oc = s.oc := rfl
@[simp] theorem State.clearModel_tp (s : State) : (s.clearModel).tp = s.tp := rfl
@[simp] theorem State.clearModel_sst (s : State) : (s.clearModel).sst = s.sst := rfl
@[simp] theorem State.clearModel_stc (s : State) : (s.clearModel).stc = s.stc := rfl
@[simp] theorem State.clearModel_flash (s : State) : (s.clearModel).flash = s.flash := rfl
@[simp] theorem State.clearModel_pending (s : State) : (s.clearModel).pending = s.pending := rfl

/-! ### openEpisode -/

@[simp] theorem State.openEpisode_running (s : State) (x : Entry) : (s.openEpisode x).running = s.running := rfl
@[simp] theorem State.openEpisode_tsu (s : State) (x : Entry) : (s.openEpisode x).tsu = s.tsu := rfl
@[simp] theorem State.openEpisode_rfe (s : State) (x : Entry) : (s.openEpisode x).rfe = s.rfe := rfl
@[simp] theorem State.openEpisode_rqu (s : State) (x : Entry) : (s.openEpisode x).rqu = s.rqu := rfl
@[simp] theorem State.openEpisode_dlp (s : State) (x : Entry) : (s.openEpisode x).dlp = s.dlp := rfl
@[simp] theorem State.openEpisode_lrn (s : State) (x : Entry) : (s.openEpisode x).lrn = s.lrn := rfl
@[simp] theorem State.openEpisode_sdc (s : State) (x : Entry) : (s.openEpisode x).sdc = s.sdc := rfl
@[simp] theorem State.openEpisode_ssq (s : State) (x : Entry) : (s.openEpisode x).ssq = s.ssq := rfl
@[simp] theorem State.openEpisode_oc (s : State) (x : Entry) : (s.openEpisode x).oc = s.oc := rfl
@[simp] theorem State.openEpisode_tp (s : State) (x : Entry) : (s.openEpisode x).tp = s.tp := rfl
@[simp] theorem State.openEpisode_sst (s : State) (x : Entry) : (s.openEpisode x).sst = s.sst := rfl
@[simp] theorem State.openEpisode_stc (s : State) (x : Entry) : (s.openEpisode x).stc = s.stc := rfl
@[simp] theorem State.openEpisode_flash (s : State) (x : Entry) : (s.openEpisode x).flash = s.flash := rfl
@[simp] theorem State.openEpisode_pending (s : State) (x : Entry) : (s.openEpisode x).pending = s.pending := rfl

/-! ### issue -/

@[simp] theorem State.issue_running (s : State) (q : StepRequest) : (s.issue q).running = s.running := rfl
@[simp] theorem State.issue_rfe (s : State) (q : StepRequest) : (s.issue q).rfe = s.rfe := rfl
@[simp] theorem State.issue_rqu (s : State) (q : StepRequest) : (s.issue q).rqu = s.rqu := rfl
@[simp] theorem State.issue_lrn (s : State) (q : StepRequest) : (s.issue q).lrn = s.lrn := rfl
@[simp] theorem State.issue_hop (s : State) (q : StepRequest) : (s.issue q).hop = s.hop := rfl
@[simp] theorem State.issue_sdc (s : State) (q : StepRequest) : (s.issue q).sdc = s.sdc := rfl
@[simp] theorem State.issue_ssq (s : State) (q : StepRequest) : (s.issue q).ssq = s.ssq := rfl
@[simp] theorem State.issue_oc (s : State) (q : StepRequest) : (s.issue q).oc = s.oc := rfl
@[simp] theorem State.issue_tp (s : State) (q : StepRequest) : (s.issue q).tp = s.tp := rfl
@[simp] theorem State.issue_sst (s : State) (q : StepRequest) : (s.issue q).sst = s.sst := rfl
@[simp] theorem State.issue_stc (s : State) (q : StepRequest) : (s.issue q).stc = s.stc := rfl
@[simp] theorem State.issue_flash (s : State) (q : StepRequest) : (s.issue q).flash = s.flash := rfl
@[simp] theorem State.issue_pending (s : State) (q : StepRequest) : (s.issue q).pending = s.pending := rfl

/-! ### countEpoch -/

@[simp] theorem State.countEpoch_running (s : State) (n : Nat) : (s.countEpoch n).running = s.running := rfl
@[simp] theorem State.countEpoch_tsu (s : State) (n : Nat) : (s.countEpoch n).tsu = s.tsu := rfl
@[simp] theorem State.countEpoch_lrn (s : State) (n : Nat) : (s.countEpoch n).lrn = s.lrn := rfl
@[simp] theorem State.countEpoch_sdc (s : State) (n : Nat) : (s.countEpoch n).sdc = s.sdc := rfl
@[simp] theorem State.countEpoch_ssq (s : State) (n : Nat) : (s.countEpoch n).ssq = s.ssq := rfl
@[simp] theorem State.countEpoch_sst (s : State) (n : Nat) : (s.countEpoch n).sst = s.sst := rfl
@[simp] theorem State.countEpoch_flash (s : State) (n : Nat) : (s.countEpoch n).flash = s.flash := rfl
@[simp] theorem State.countEpoch_pending (s : State) (n : Nat) : (s.countEpoch n).pending = s.pending := rfl

/-! ### startSave -/

@[simp] theorem State.startSave_running (s : State) (a : Area) (o : SaveOrigin) : (s.startSave a o).running = s.running := rfl
@[simp] theorem State.startSave_tsu (s : State) (a : Area) (o : SaveOrigin) : (s.startSave a o).tsu = s.tsu := rfl
@[simp] theorem State.startSave_rfe (s : State) (a : Area) (o : SaveOrigin) : (s.startSave a o).rfe = s.rfe := rfl
@[simp] theorem State.startSave_rqu (s : State) (a : Area) (o : SaveOrigin) : (s.startSave a o).rqu = s.rqu := rfl
@[simp] theorem State.startSave_dlp (s : State) (a : Area) (o : SaveOrigin) : (s.startSave a o).dlp = s.dlp := rfl
@[simp] theorem State.startSave_lrn (s : State) (a : Area) (o : SaveOrigin) : (s.startSave a o).lrn = s.lrn := rfl
@[simp] theorem State.startSave_hop (s : State) (a : Area) (o : SaveOrigin) : (s.startSave a o).hop = s.hop := rfl
@[simp] theorem State.startSave_sdc (s : State) (a : Area) (o : SaveOrigin) : (s.startSave a o).sdc = s.sdc := rfl
@[simp] theorem State.startSave_ssq (s : State) (a : Area) (o : SaveOrigin) : (s.startSave a o).ssq = s.ssq := rfl
@[simp] theorem State.startSave_oc (s : State) (a : Area) (o : SaveOrigin) : (s.startSave a o).oc = s.oc := rfl
@[simp] theorem State.startSave_tp (s : State) (a : Area) (o : SaveOrigin) : (s.startSave a o).tp = s.tp := rfl
@[simp] theorem State.startSave_sst (s : State) (a : Area) (o : SaveOrigin) : (s.startSave a o).sst = s.sst := rfl
@[simp] theorem State.startSave_flash (s : State) (a : Area) (o : SaveOrigin) : (s.startSave a o).flash = s.flash := rfl
@[simp] theorem State.startSave_pending (s : State) (a : Area) (o : SaveOrigin) : (s.startSave a o).pending = s.pending := rfl

/-! ### recordSave -/

@[simp] theorem State.recordSave_running (s : State) (v : Save) (ok : Bool) (d b : Nat) : (s.recordSave v ok d b).running = s.running := rfl
@[simp] theorem State.recordSave_tsu (s : State) (v : Save) (ok : Bool) (d b : Nat) : (s.recordSave v ok d b).tsu = s.tsu := rfl
@[simp] theorem State.recordSave_rfe (s : State) (v : Save) (ok : Bool) (d b : Nat) : (s.recordSave v ok d b).rfe = s.rfe := rfl
@[simp] theorem State.recordSave_rqu (s : State) (v : Save) (ok : Bool) (d b : Nat) : (s.recordSave v ok d b).rqu = s.rqu := rfl
@[simp] theorem State.recordSave_dlp (s : State) (v : Save) (ok : Bool) (d b : Nat) : (s.recordSave v ok d b).dlp = s.dlp := rfl
@[simp] theorem State.recordSave_lrn (s : State) (v : Save) (ok : Bool) (d b : Nat) : (s.recordSave v ok d b).lrn = s.lrn := rfl
@[simp] theorem State.recordSave_hop (s : State) (v : Save) (ok : Bool) (d b : Nat) : (s.recordSave v ok d b).hop = s.hop := rfl
@[simp] theorem State.recordSave_sdc (s : State) (v : Save) (ok : Bool) (d b : Nat) : (s.recordSave v ok d b).sdc = s.sdc := rfl
@[simp] theorem State.recordSave_ssq (s : State) (v : Save) (ok : Bool) (d b : Nat) : (s.recordSave v ok d b).ssq = s.ssq := rfl
@[simp] theorem State.recordSave_oc (s : State) (v : Save) (ok : Bool) (d b : Nat) : (s.recordSave v ok d b).oc = s.oc := rfl
@[simp] theorem State.recordSave_tp (s : State) (v : Save) (ok : Bool) (d b : Nat) : (s.recordSave v ok d b).tp = s.tp := rfl
@[simp] theorem State.recordSave_pending (s : State) (v : Save) (ok : Bool) (d b : Nat) : (s.recordSave v ok d b).pending = s.pending := rfl

/-! ### loadSite -/

@[simp] theorem State.loadSite_running (s : State) (c : Option (List Byte)) : (s.loadSite c).running = s.running := rfl
@[simp] theorem State.loadSite_tsu (s : State) (c : Option (List Byte)) : (s.loadSite c).tsu = s.tsu := rfl
@[simp] theorem State.loadSite_rfe (s : State) (c : Option (List Byte)) : (s.loadSite c).rfe = s.rfe := rfl
@[simp] theorem State.loadSite_rqu (s : State) (c : Option (List Byte)) : (s.loadSite c).rqu = s.rqu := rfl
@[simp] theorem State.loadSite_dlp (s : State) (c : Option (List Byte)) : (s.loadSite c).dlp = s.dlp := rfl
@[simp] theorem State.loadSite_lrn (s : State) (c : Option (List Byte)) : (s.loadSite c).lrn = s.lrn := rfl
@[simp] theorem State.loadSite_hop (s : State) (c : Option (List Byte)) : (s.loadSite c).hop = s.hop := rfl
@[simp] theorem State.loadSite_sdc (s : State) (c : Option (List Byte)) : (s.loadSite c).sdc = s.sdc := rfl
@[simp] theorem State.loadSite_ssq (s : State) (c : Option (List Byte)) : (s.loadSite c).ssq = s.ssq := rfl
@[simp] theorem State.loadSite_oc (s : State) (c : Option (List Byte)) : (s.loadSite c).oc = s.oc := rfl
@[simp] theorem State.loadSite_tp (s : State) (c : Option (List Byte)) : (s.loadSite c).tp = s.tp := rfl
@[simp] theorem State.loadSite_flash (s : State) (c : Option (List Byte)) : (s.loadSite c).flash = s.flash := rfl
@[simp] theorem State.loadSite_pending (s : State) (c : Option (List Byte)) : (s.loadSite c).pending = s.pending := rfl

/-! ### restore -/

@[simp] theorem State.restore_running (s : State) (x : Restored) : (s.restore x).running = s.running := rfl
@[simp] theorem State.restore_tsu (s : State) (x : Restored) : (s.restore x).tsu = s.tsu := rfl
@[simp] theorem State.restore_rfe (s : State) (x : Restored) : (s.restore x).rfe = s.rfe := rfl
@[simp] theorem State.restore_rqu (s : State) (x : Restored) : (s.restore x).rqu = s.rqu := rfl
@[simp] theorem State.restore_dlp (s : State) (x : Restored) : (s.restore x).dlp = s.dlp := rfl
@[simp] theorem State.restore_sdc (s : State) (x : Restored) : (s.restore x).sdc = s.sdc := rfl
@[simp] theorem State.restore_ssq (s : State) (x : Restored) : (s.restore x).ssq = s.ssq := rfl
@[simp] theorem State.restore_oc (s : State) (x : Restored) : (s.restore x).oc = s.oc := rfl
@[simp] theorem State.restore_tp (s : State) (x : Restored) : (s.restore x).tp = s.tp := rfl
@[simp] theorem State.restore_sst (s : State) (x : Restored) : (s.restore x).sst = s.sst := rfl
@[simp] theorem State.restore_flash (s : State) (x : Restored) : (s.restore x).flash = s.flash := rfl
@[simp] theorem State.restore_pending (s : State) (x : Restored) : (s.restore x).pending = s.pending := rfl

/-! ### Families -/

theorem mem_ports (k : Port) : k ∈ ports := by cases k <;> decide

theorem mem_phaseRefs (r : PhaseRef) : r ∈ phaseRefs := by
  cases r with
  | pulse p => cases p <;> decide
  | packet k => cases k <;> decide

theorem mem_refs (r : Ref) : r ∈ refs := by
  cases r with
  | f1 => decide
  | phase r => cases r with
    | pulse p => cases p <;> decide
    | packet k => cases k <;> decide

@[simp] theorem perPort_get_set_same {α : Type} (x : PerPort α) (k : Port) (v : α) : (x.set k v).get k = v := by cases k <;> rfl

theorem perPort_get_set_other {α : Type} (x : PerPort α) (k j : Port) (v : α) (h : j ≠ k) : (x.set k v).get j = x.get j := by
  cases k <;> cases j <;> first | rfl | exact absurd rfl h

theorem perPort_get_set {α : Type} (x : PerPort α) (k j : Port) (v : α) :
    (x.set k v).get j = if j = k then v else x.get j := by
  cases k <;> cases j <;> rfl

@[simp] theorem perPort_set_set {α : Type} (x : PerPort α) (k : Port) (v w : α) : (x.set k v).set k w = x.set k w := by
  cases k <;> rfl

@[simp] theorem perPort_set_get {α : Type} (x : PerPort α) (k : Port) : x.set k (x.get k) = x := by cases k <;> rfl

@[simp] theorem perPort_get_map {α β : Type} (f : α → β) (x : PerPort α) (k : Port) : (x.map f).get k = f (x.get k) := by
  cases k <;> rfl

@[simp] theorem perPort_get_same {α : Type} (v : α) (k : Port) : (PerPort.same v).get k = v := by cases k <;> rfl

theorem perPort_ext {α : Type} (x y : PerPort α) (h : ∀ k, x.get k = y.get k) : x = y := by
  cases x; cases y
  simp only [PerPort.mk.injEq]
  exact ⟨h .tp0, h .tp1, h .tp2, h .tp3⟩

@[simp] theorem perPulse_get_set_same {α : Type} (x : PerPulse α) (p : PulseIn) (v : α) : (x.set p v).get p = v := by cases p <;> rfl

theorem perPulse_get_set {α : Type} (x : PerPulse α) (p q : PulseIn) (v : α) :
    (x.set p v).get q = if q = p then v else x.get q := by
  cases p <;> cases q <;> rfl

@[simp] theorem perPulse_set_set {α : Type} (x : PerPulse α) (p : PulseIn) (v w : α) : (x.set p v).set p w = x.set p w := by
  cases p <;> rfl

@[simp] theorem perRef_get_set_same {α : Type} (x : PerRef α) (r : Ref) (v : α) : (x.set r v).get r = v := by
  cases r with
  | f1 => rfl
  | phase r => cases r with
    | pulse p => cases p <;> rfl
    | packet k => cases k <;> rfl

theorem perRef_get_set {α : Type} (x : PerRef α) (r q : Ref) (v : α) : (x.set r v).get q = if q = r then v else x.get q := by
  cases r with
  | f1 => cases q with
    | f1 => rfl
    | phase q => cases q <;> simp [PerRef.set, PerRef.get]
  | phase r =>
    cases q with
    | f1 => cases r <;> rfl
    | phase q =>
      cases r with
      | pulse p => cases q with
        | pulse p' => cases p <;> cases p' <;> rfl
        | packet k => cases p <;> cases k <;> rfl
      | packet k => cases q with
        | pulse p => cases k <;> cases p <;> rfl
        | packet k' => cases k <;> cases k' <;> rfl

@[simp] theorem perRef_get_same {α : Type} (v : α) (r : Ref) : (PerRef.same v).get r = v := by
  cases r with
  | f1 => rfl
  | phase r => cases r with
    | pulse p => cases p <;> rfl
    | packet k => cases k <;> rfl

/-! ### Reading a member after its update -/

theorem record_onRecord (s : State) (r q : Ref) (f : RefRecord → RefRecord) :
    (s.onRecord r f).record q = if q = r then f (s.record r) else s.record q := perRef_get_set _ _ _ _

@[simp] theorem record_onRecord_same (s : State) (r : Ref) (f : RefRecord → RefRecord) :
    (s.onRecord r f).record r = f (s.record r) := perRef_get_set_same _ _ _

@[simp] theorem port_onPort (s : State) (k : Port) (f : TenantPort → TenantPort) : (s.onPort k f).tp.get k = f (s.tp.get k) :=
  perPort_get_set_same _ _ _

@[simp] theorem channel_onChannel (s : State) (k : Port) (f : Channel → Channel) : (s.onChannel k f).oc.get k = f (s.oc.get k) :=
  perPort_get_set_same _ _ _

@[simp] theorem window_onWindow (s : State) (k : Port) (f : Window → Window) :
    (s.onWindow k f).rfe.windows.get k = f (s.rfe.windows.get k) := perPort_get_set_same _ _ _

@[simp] theorem pulse_onPulse (s : State) (p : PulseIn) (f : PulseInput → PulseInput) :
    (s.onPulse p f).rfe.pulses.get p = f (s.rfe.pulses.get p) := perPulse_get_set_same _ _ _

@[simp] theorem onPort_onPort (s : State) (k : Port) (f g : TenantPort → TenantPort) :
    (s.onPort k f).onPort k g = s.onPort k (fun p => g (f p)) := by
  simp [State.onPort]

/-- An advance to an instant of the interval that has not passed sets the phase to it. -/
theorem advanceTo_timely (s : State) (t : Nat) (h : s.tsu.phase ≤ t) (h' : t < s.tsu.interval) :
    s.advanceTo t = { s with tsu := { s.tsu with phase := t } } := by
  have e : max s.tsu.phase (min t (s.tsu.interval - 1)) = t := by omega
  simp only [State.advanceTo, Tsu.advance, e]

end Sys2Proof.Machine
end

