-- ==== Sys2Proof/Laws/Ops.lean ====
section
/-! SUPPORT. What each shared operation of the queues, the transactions and the time scale can do, said once. -/

set_option Elab.async false

namespace Sys2Proof.Machine

open Sys2Proof Sys2Proof.Safety

/-! ## Outcomes -/

theorem whileRunning_running (s : State) (f : State → State) (h : s.running = true) : whileRunning s f = .next (f s) := by
  simp [whileRunning, h]

theorem whileRunning_held (s : State) (f : State → State) (h : s.running = false) : whileRunning s f = .next s := by
  simp [whileRunning, h]

/-- Every command is answered by a next state. -/
theorem exec_next (c : Instr) (s : State) : ∃ u, exec c s = .next u := by
  cases c <;> exact ⟨_, rfl⟩

/-! ## Queues -/

theorem append_places (phase : Nat) (p : TenantPort) (f : Frame) : (p.append phase f).places = p.places + 1 := by
  simp [TenantPort.append, TenantPort.places]; omega

/-- Room is made by the removal of one notice, which sets the dropped flag. -/
theorem makeRoom_cases (p p' : TenantPort) (h : p.makeRoom = some p') :
    (∃ f ∈ p.queue, f.notice ≠ none) ∧ p' = { p with queue := p'.queue, dropped := true } ∧
      p'.queue.Sublist p.queue ∧ p'.queue.length + 1 = p.queue.length := by
  unfold TenantPort.makeRoom at h
  split at h
  · rename_i hm
    simp only [Option.some.injEq] at h
    subst h
    obtain ⟨f, hf, hk⟩ := List.any_eq_true.1 hm
    refine ⟨⟨f, hf, ?_⟩, rfl, List.eraseP_sublist, ?_⟩
    · simp only [Frame.isNotice, beq_iff_eq] at hk; rw [hk]; simp
    · have := List.length_pos_of_mem hf
      simp only [List.length_eraseP_of_mem hf hk]; omega
  · split at h
    · rename_i hm
      simp only [Option.some.injEq] at h
      subst h
      obtain ⟨f, hf, hk⟩ := List.any_eq_true.1 hm
      refine ⟨⟨f, hf, ?_⟩, rfl, List.eraseP_sublist, ?_⟩
      · rintro e; simp [e] at hk
      · have := List.length_pos_of_mem hf
        simp only [List.length_eraseP_of_mem (p := fun f : Frame => f.notice.isSome) hf hk]; omega
    · cases h

/-- A frame that finds room joins the tail. -/
theorem join_of_room (phase : Nat) (p : TenantPort) (f : Frame) (h : p.places < 8) : p.join phase f = p.append phase f := by
  simp [TenantPort.join, h]

/-- A frame joins the tail as the queue is, or after room was made, or is discarded. -/
theorem join_cases (phase : Nat) (p : TenantPort) (f : Frame) :
    (p.places < 8 ∧ p.join phase f = p.append phase f) ∨
    (∃ p', p.makeRoom = some p' ∧ p.join phase f = p'.append phase f) ∨
    (8 ≤ p.places ∧ p.join phase f = { p with dropped := true }) := by
  unfold TenantPort.join
  split
  · rename_i h; exact .inl ⟨h, rfl⟩
  · rename_i h
    have h8 : 8 ≤ p.places := by simpa using h
    split
    · exact .inr (.inr ⟨h8, rfl⟩)
    · split
      · rename_i p' e; exact .inr (.inl ⟨p', e, rfl⟩)
      · exact .inr (.inr ⟨h8, rfl⟩)

/-- A notice placed replaces the content of the one queued, or joins. -/
theorem place_cases (phase : Nat) (p : TenantPort) (k : NoticeKind) (x : List Byte) :
    (p.queue.any (Frame.isNotice k) = true ∧
      p.place phase k x = { p with queue := p.queue.map (fun f => if f.isNotice k then { f with payload := x } else f) }) ∨
    (p.queue.any (Frame.isNotice k) = false ∧
      p.place phase k x = p.join phase { notice := some k, kind := byte k.code, payload := x }) := by
  unfold TenantPort.place
  split
  · rename_i h; exact .inl ⟨h, rfl⟩
  · rename_i h; exact .inr ⟨by simpa using h, rfl⟩

/-- A response that finds room, with the attention pulse it may start. -/
theorem respond_of_room (s : State) (k : Port) (kind : Nat) (x : List Byte) (h : (s.tp.get k).places < 8) :
    s.respond k kind x = { s with tp := s.tp.set k (withResponse (s.tp.get k) s.tsu.phase kind x) } := by
  have e : (s.tp.get k).join s.tsu.phase { notice := none, kind := byte kind, payload := x } =
      withResponse (s.tp.get k) s.tsu.phase kind x := by
    rw [join_of_room _ _ _ h]
    simp [TenantPort.append, withResponse, List.isEmpty_iff]
  simp only [State.respond, State.onPort, e]

/-! ## Transactions -/

theorem collected_eq (p : TenantPort) (h : p.transmit = none) : p.begin.statusOut.delivered.goodFrame = collected p := by
  cases hq : p.queue with
  | nil => simp [TenantPort.begin, h, hq, TenantPort.statusOut, TenantPort.delivered, TenantPort.goodFrame, collected]
  | cons f fs => simp [TenantPort.begin, h, hq, TenantPort.statusOut, TenantPort.delivered, TenantPort.goodFrame, collected]

theorem begun_note (p : TenantPort) (h : p.transmit = none) : p.begin.statusOut.delivered.note = p.note := by
  cases hq : p.queue with
  | nil => simp [TenantPort.begin, h, hq, TenantPort.statusOut, TenantPort.delivered, TenantPort.note]
  | cons f fs => simp [TenantPort.begin, h, hq, TenantPort.statusOut, TenantPort.delivered, TenantPort.note]

/-- A collection leaves room for the response. -/
theorem collected_places (p : TenantPort) (h : p.places ≤ 8) : (collected p).places < 8 := by
  have : onOff p.reservation ≤ 1 := by unfold onOff; split <;> omega
  cases hq : p.queue <;> simp [TenantPort.places, collected, hq] at h ⊢ <;> omega

/-- A whole transaction on a port that is ready: the head collected, then the request dispatched. -/
theorem request_ready (s : State) (k : Port) (t : Nat) (q : Request) (h : Ready s k t) :
    s.request k t q = (atDispatch s k t).dispatch k (s.tp.get k).note q := by
  obtain ⟨⟨_, h1, h2⟩, h3, _⟩ := h
  unfold State.request
  rw [advanceTo_timely s t h1 h2]
  dsimp only
  rw [onPort_onPort, port_onPort]
  simp only [begun_note _ h3]
  congr 1
  simp only [State.onPort, atDispatch, withPort, atPhase, collected_eq _ h3]

/-- A response of a payload at the dispatch of a request on a ready port. -/
theorem respond_atDispatch (s : State) (k : Port) (t kind : Nat) (x : List Byte) (h : Ready s k t) :
    (atDispatch s k t).respond k kind x = answered s k t kind x := by
  rw [respond_of_room]
  · simp [atDispatch, withPort, answered, atPhase]
  · simpa [atDispatch, withPort] using collected_places _ h.2.2

/-- A request that its owner answers, once the store is not LOADING. -/
theorem dispatch_loaded (s : State) (k : Port) (n : PortNote) (q : Request) (h : s.stc.store.isLoading = false) :
    s.dispatch k n q = s.answer k n q := by
  unfold State.dispatch
  split
  · rename_i e; subst e; rfl
  · simp [h]

/-! ## Steps of the time scale -/

/-- The split of a picosecond part. -/
theorem splitSeconds_spec (p : Int) :
    p = splitSeconds p * 1000000000000 + splitRemainder p ∧ -500000000000 < splitRemainder p ∧ splitRemainder p ≤ 500000000000 := by
  unfold splitRemainder splitSeconds ceiling
  simp only [Config.second, Config.halfSecond]
  omega

end Sys2Proof.Machine
end

