-- ==== Sys2Proof/Laws/Commands.lean ====
section
/-! SUPPORT. The effect of each command on a part that runs, in one equation each. -/

set_option Elab.async false

namespace Sys2Proof.Machine

open Sys2Proof

section

variable (s : State) (h : s.running = true)

include h

theorem exec_slewTick (k : Fin 16) : exec (.slewTick k) s = .next
    (let v := s.advanceTo (k.val * (s.tsu.interval / 16))
    { v with sdc := v.sdc.tick (v.site.nat .slewStep) }) := by
  simp only [exec, execSlewTick]
  exact whileRunning_running s _ h

theorem exec_f1Edge (t : Nat) : exec (.f1Edge t) s = .next
    (let v := s.advanceTo t
    { v with rfe := { v.rfe with f1 := v.rfe.f1.edge v.tsu.phase } }) := by
  simp only [exec, execF1Edge]
  exact whileRunning_running s _ h

theorem exec_vctlSample : exec .vctlSample s = .next
    (if s.ssq.inProgress then { s with sdc := { s.sdc with latchedCode := s.sdc.output, latchedMoved := s.sdc.moved } } else s) := by
  simp only [exec, execVctlSample]
  exact whileRunning_running s _ h

theorem exec_saveTimeout (t : Nat) (x : SaveProgress) : exec (.saveTimeout t x) s = .next
    (match s.stc.store with
    | .saving v =>
      let y : SaveProgress := { x with done := min x.done (v.ops.length - 1) }
      (s.advanceTo t).endSave v false y.done (begunOps y)
    | _ => s.advanceTo t) := by
  simp only [exec, execSaveTimeout]
  exact whileRunning_running s _ h

theorem exec_siteLoad (a : Bool) : exec (.siteLoad a) s = .next
    (match s.stc.store with
    | .loadingSite => s.loadSite (readArea .site a s.flash.site)
    | _ => s) := by
  simp only [exec, execSiteLoad]
  exact whileRunning_running s _ h

theorem exec_modelLoad (t : Nat) (a : Bool) : exec (.modelLoad t a) s = .next
    (match (s.advanceTo t).stc.store with
    | .loadingModel => (s.advanceTo t).loadModel (readArea .model a (s.advanceTo t).flash.model)
    | _ => s.advanceTo t) := by
  simp only [exec, execModelLoad]
  exact whileRunning_running s _ h

theorem exec_epoch : exec .epoch s = .next
    (s.raiseEpoch) := by
  simp only [exec, execEpoch]
  exact whileRunning_running s _ h

theorem exec_autosave : exec .autosave s = .next
    (match s.stc.store with
    | .idle => if s.tsu.phase = 0 ∧ s.autosaveDue = true ∧ s.stc.pendingEmergency = false then s.startSave .model .auto else s
    | _ => s) := by
  simp only [exec, execAutosave]
  exact whileRunning_running s _ h

theorem exec_holdOffExpiry (r : Ref) : exec (.holdOffExpiry r) s = .next
    (if (s.record r).state = .faulted ∧ (s.record r).holdOff = 0 then (Work.expire ⟨s, []⟩ r).finish .other else s) := by
  simp only [exec, execHoldOffExpiry]
  exact whileRunning_running s _ h

theorem exec_settlingExpiry : exec .settlingExpiry s = .next
    (if s.dlp.settling = some 0 then { s with dlp := { s.dlp with settling := none } } else s) := by
  simp only [exec, execSettlingExpiry]
  exact whileRunning_running s _ h

theorem exec_loopUpdate (order : List UpdatePart) : exec (.loopUpdate order) s = .next
    (s.update order) := by
  simp only [exec, execLoopUpdate]
  exact whileRunning_running s _ h

theorem exec_pulseArrival (p : PulseIn) (t : Nat) : exec (.pulseArrival p t) s = .next
    ((s.advanceTo t).pulse p) := by
  simp only [exec, execPulseArrival]
  exact whileRunning_running s _ h

theorem exec_companionRecord (p : PulseIn) (bytes : List Byte) : exec (.companionRecord p bytes) s = .next
    (s.onPulse p (fun y => bytes.foldl PulseInput.receive y)) := by
  simp only [exec, execCompanionRecord]
  exact whileRunning_running s _ h

theorem exec_staleTimerExpiry (k : Port) : exec (.staleTimerExpiry k) s = .next
    (if (s.rfe.windows.get k).timer = some 0 then s.staleExpiry k else s) := by
  simp only [exec, execStaleTimerExpiry]
  exact whileRunning_running s _ h

theorem exec_sensorSequenceStart : exec .sensorSequenceStart s = .next
    ({ s with ssq := { s.ssq with inProgress := true } }) := by
  simp only [exec, execSensorSequenceStart]
  exact whileRunning_running s _ h

theorem exec_transactionStart (k : Port) : exec (.transactionStart k) s = .next
    (s.onPort k TenantPort.begin) := by
  simp only [exec, execTransactionStart]
  exact whileRunning_running s _ h

theorem exec_statusByteClockedOut (k : Port) : exec (.statusByteClockedOut k) s = .next
    (s.onPort k TenantPort.statusOut) := by
  simp only [exec, execStatusByteClockedOut]
  exact whileRunning_running s _ h

theorem exec_frameReceived (k : Port) (t : Nat) (bytes : List Byte) : exec (.frameReceived k t bytes) s = .next
    (if ((s.advanceTo t).tp.get k).transmit.isSome then
      ((s.advanceTo t).onPort k (fun p => p.finish bytes.length)).receive k (judgeFrame bytes)
    else s.advanceTo t) := by
  simp only [exec, execFrameReceived]
  exact whileRunning_running s _ h

theorem exec_sequenceComplete (t : Nat) (raw : RawCounts) : exec (.sequenceComplete t raw) s = .next
    (if (s.advanceTo t).ssq.inProgress then (s.advanceTo t).completeSequence raw else s.advanceTo t) := by
  simp only [exec, execSequenceComplete]
  exact whileRunning_running s _ h

theorem exec_pulseDue (k : Port) : exec (.pulseDue k) s = .next
    (match (s.oc.get k).duePhase s.tsu.interval with
    | none => s
    | some at_ => (s.advanceTo at_).servePulse k at_) := by
  simp only [exec, execPulseDue]
  exact whileRunning_running s _ h

theorem exec_pulseEnd (k : Port) : exec (.pulseEnd k) s = .next
    (match (s.oc.get k).endInstant s.tsu.interval s.tsu.nextInterval with
    | none => s
    | some e => if e < s.tsu.interval then (s.advanceTo e).onChannel k Channel.endPulse else s) := by
  simp only [exec, execPulseEnd]
  exact whileRunning_running s _ h

theorem exec_attentionPulseEnd (k : Port) : exec (.attentionPulseEnd k) s = .next
    (match (s.tp.get k).pulseEnd with
    | none => s
    | some e => if e < s.tsu.interval then (s.advanceTo e).onPort k (fun p => { p with pulseEnd := none }) else s) := by
  simp only [exec, execAttentionPulseEnd]
  exact whileRunning_running s _ h

theorem exec_saveEnd (t clean : Nat) : exec (.saveEnd t clean) s = .next
    (match s.stc.store with
    | .saving v => (s.advanceTo t).endSave v (decide (v.ops.length ≤ clean)) clean (clean + 1)
    | _ => s.advanceTo t) := by
  simp only [exec, execSaveEnd]
  exact whileRunning_running s _ h

theorem exec_powerFailWarning : exec .powerFailWarning s = .next
    (match s.stc.store with
    | .idle => s.startSave .model .emergency
    | .saving v => if v.origin.isEmergency then s else { s with stc := { s.stc with pendingEmergency := true } }
    | _ => s) := by
  simp only [exec, execPowerFailWarning]
  exact whileRunning_running s _ h

theorem exec_poll (k : Port) (t : Nat) : exec (.poll k t) s = .next (s.request k t .poll) := by
  simp only [exec, execPoll]
  exact whileRunning_running s _ h

theorem exec_status (k : Port) (t : Nat) : exec (.status k t) s = .next (s.request k t .status) := by
  simp only [exec, execStatus]
  exact whileRunning_running s _ h

theorem exec_identify (k : Port) (t : Nat) : exec (.identify k t) s = .next (s.request k t .identify) := by
  simp only [exec, execIdentify]
  exact whileRunning_running s _ h

theorem exec_portSet (k : Port) (t : Nat) (m q l : Byte) : exec (.portSet k t m q l) s = .next (s.request k t (.portSet m q l)) := by
  simp only [exec, execPortSet]
  exact whileRunning_running s _ h

theorem exec_portReset (k : Port) (t : Nat) : exec (.portReset k t) s = .next (s.request k t .portReset) := by
  simp only [exec, execPortReset]
  exact whileRunning_running s _ h

theorem exec_offsetReport (k : Port) (t : Nat) (f : OffsetFields) : exec (.offsetReport k t f) s = .next (s.request k t (.offsetReport f)) := by
  simp only [exec, execOffsetReport]
  exact whileRunning_running s _ h

theorem exec_referenceGet (k : Port) (t : Nat) (i x : Byte) : exec (.referenceGet k t i x) s = .next (s.request k t (.referenceGet i x)) := by
  simp only [exec, execReferenceGet]
  exact whileRunning_running s _ h

theorem exec_historyGet (k : Port) (t : Nat) (i : Byte) : exec (.historyGet k t i) s = .next (s.request k t (.historyGet i)) := by
  simp only [exec, execHistoryGet]
  exact whileRunning_running s _ h

theorem exec_tableGet (k : Port) (t : Nat) (i : Byte) : exec (.tableGet k t i) s = .next (s.request k t (.tableGet i)) := by
  simp only [exec, execTableGet]
  exact whileRunning_running s _ h

theorem exec_healthGet (k : Port) (t : Nat) : exec (.healthGet k t) s = .next (s.request k t .healthGet) := by
  simp only [exec, execHealthGet]
  exact whileRunning_running s _ h

theorem exec_modelClear (k : Port) (t : Nat) : exec (.modelClear k t) s = .next (s.request k t .modelClear) := by
  simp only [exec, execModelClear]
  exact whileRunning_running s _ h

theorem exec_episodeGet (k : Port) (t : Nat) (i x : Byte) : exec (.episodeGet k t i x) s = .next (s.request k t (.episodeGet i x)) := by
  simp only [exec, execEpisodeGet]
  exact whileRunning_running s _ h

theorem exec_sensorGet (k : Port) (t : Nat) : exec (.sensorGet k t) s = .next (s.request k t .sensorGet) := by
  simp only [exec, execSensorGet]
  exact whileRunning_running s _ h

theorem exec_channelSet (k : Port) (t : Nat) (f : ChannelFields) : exec (.channelSet k t f) s = .next (s.request k t (.channelSet f)) := by
  simp only [exec, execChannelSet]
  exact whileRunning_running s _ h

theorem exec_channelGet (k : Port) (t : Nat) : exec (.channelGet k t) s = .next (s.request k t .channelGet) := by
  simp only [exec, execChannelGet]
  exact whileRunning_running s _ h

theorem exec_siteGet (k : Port) (t : Nat) (i n : Byte) : exec (.siteGet k t i n) s = .next (s.request k t (.siteGet i n)) := by
  simp only [exec, execSiteGet]
  exact whileRunning_running s _ h

theorem exec_siteSet (k : Port) (t : Nat) (i n : Byte) (v : BitVec 48) : exec (.siteSet k t i n v) s = .next (s.request k t (.siteSet i n v)) := by
  simp only [exec, execSiteSet]
  exact whileRunning_running s _ h

theorem exec_siteFreeze (k : Port) (t : Nat) : exec (.siteFreeze k t) s = .next (s.request k t .siteFreeze) := by
  simp only [exec, execSiteFreeze]
  exact whileRunning_running s _ h

theorem exec_siteSave (k : Port) (t : Nat) : exec (.siteSave k t) s = .next (s.request k t .siteSave) := by
  simp only [exec, execSiteSave]
  exact whileRunning_running s _ h

theorem exec_modelSave (k : Port) (t : Nat) : exec (.modelSave k t) s = .next (s.request k t .modelSave) := by
  simp only [exec, execModelSave]
  exact whileRunning_running s _ h

end

end Sys2Proof.Machine
end

