-- ==== Sys2Proof/Laws/Frames.lean ====
section
/-! SUPPORT. What the events of the Reference Qualifier leave as it is: a sample changes the reference table, the pulse inputs' memory of
estimates and the outbound queues, and nothing else. -/

set_option Elab.async false

namespace Sys2Proof.Machine

open Sys2Proof

/-- Everything but the reference table, the front end and the outbound queues is as before. -/
structure RquFrame (s u : State) : Prop where
  running : u.running = s.running
  tsu : u.tsu = s.tsu
  dlp : u.dlp = s.dlp
  lrn : u.lrn = s.lrn
  hop : u.hop = s.hop
  sdc : u.sdc = s.sdc
  ssq : u.ssq = s.ssq
  oc : u.oc = s.oc
  sst : u.sst = s.sst
  stc : u.stc = s.stc
  flash : u.flash = s.flash
  pending : u.pending = s.pending

/-- Moreover the windows and the F1 input are as before, and so is each pulse input but for the estimates it remembers. -/
structure SampleFrame (s u : State) : Prop extends RquFrame s u where
  windows : u.rfe.windows = s.rfe.windows
  f1 : u.rfe.f1 = s.rfe.f1
  pulses : ∀ p, { u.rfe.pulses.get p with lastTwo := [] } = { s.rfe.pulses.get p with lastTwo := [] }

theorem RquFrame.refl (s : State) : RquFrame s s := ⟨rfl, rfl, rfl, rfl, rfl, rfl, rfl, rfl, rfl, rfl, rfl, rfl⟩

theorem RquFrame.trans {s u v : State} (a : RquFrame s u) (b : RquFrame u v) : RquFrame s v :=
  ⟨b.running.trans a.running, b.tsu.trans a.tsu, b.dlp.trans a.dlp, b.lrn.trans a.lrn, b.hop.trans a.hop, b.sdc.trans a.sdc,
   b.ssq.trans a.ssq, b.oc.trans a.oc, b.sst.trans a.sst, b.stc.trans a.stc, b.flash.trans a.flash, b.pending.trans a.pending⟩

theorem SampleFrame.refl (s : State) : SampleFrame s s := ⟨.refl s, rfl, rfl, fun _ => rfl⟩

theorem SampleFrame.trans {s u v : State} (a : SampleFrame s u) (b : SampleFrame u v) : SampleFrame s v :=
  ⟨a.toRquFrame.trans b.toRquFrame, b.windows.trans a.windows, b.f1.trans a.f1, fun p => (b.pulses p).trans (a.pulses p)⟩

/-- A change of the reference table alone. -/
theorem SampleFrame.rqu {s u : State} (h : SampleFrame s u) (r : Rqu) : SampleFrame s { u with rqu := r } :=
  ⟨⟨h.running, h.tsu, h.dlp, h.lrn, h.hop, h.sdc, h.ssq, h.oc, h.sst, h.stc, h.flash, h.pending⟩, h.windows, h.f1, h.pulses⟩

/-- A change of the outbound queues alone. -/
theorem SampleFrame.tp {s u : State} (h : SampleFrame s u) (x : PerPort TenantPort) : SampleFrame s { u with tp := x } :=
  ⟨⟨h.running, h.tsu, h.dlp, h.lrn, h.hop, h.sdc, h.ssq, h.oc, h.sst, h.stc, h.flash, h.pending⟩, h.windows, h.f1, h.pulses⟩

/-- A change of the front end alone. -/
theorem RquFrame.rfe {s u : State} (h : RquFrame s u) (x : Rfe) : RquFrame s { u with rfe := x } :=
  ⟨h.running, h.tsu, h.dlp, h.lrn, h.hop, h.sdc, h.ssq, h.oc, h.sst, h.stc, h.flash, h.pending⟩

section

variable {s u : State} {w : Work}

theorem SampleFrame.on {f : State → State} (h : SampleFrame s (f w.st)) : SampleFrame s (w.on f).st := h

theorem SampleFrame.mark {r : Ref} {c : Option Cause} (h : SampleFrame s w.st) : SampleFrame s (w.mark r c).st := h

/-- A frame kept by each step of a fold. -/
theorem SampleFrame.foldl {α : Type} {f : Work → α → Work} (step : ∀ w a, SampleFrame s w.st → SampleFrame s (f w a).st) (xs : List α)
    (w : Work) (h : SampleFrame s w.st) : SampleFrame s (xs.foldl f w).st := by
  induction xs generalizing w with
  | nil => exact h
  | cons x xs ih => exact ih (f w x) (step w x h)

theorem SampleFrame.onRecord {r : Ref} {f : RefRecord → RefRecord} (h : SampleFrame s u) : SampleFrame s (u.onRecord r f) := h.rqu _

theorem SampleFrame.onPair {a b : PhaseRef} {f : PairEntry → PairEntry} (h : SampleFrame s u) : SampleFrame s (u.onPair a b f) :=
  h.rqu _

theorem SampleFrame.noticeAll {n : NoticeKind} {x : List Byte} (h : SampleFrame s u) : SampleFrame s (u.noticeAll n x) := h.tp _

theorem SampleFrame.forgetHistory {r : Ref} (h : SampleFrame s u) : SampleFrame s (u.forgetHistory r) := by
  unfold State.forgetHistory
  dsimp only
  split
  · rename_i p
    have g := h.onRecord (r := .phase (.pulse p)) (f := fun y => { y with history := [] })
    refine ⟨g.toRquFrame.rfe _, g.windows, g.f1, fun q => ?_⟩
    rw [← h.pulses q]
    simp only [State.onPulse, State.onRecord, perPulse_get_set]
    split <;> simp_all
  · exact h.onRecord

theorem SampleFrame.transition {r : Ref} {x : RefState} {c : Cause} (h : SampleFrame s w.st) :
    SampleFrame s (w.transition r x c).st := by
  unfold Work.transition
  exact .mark (.on (.onRecord h))

theorem SampleFrame.unmark {a b : PhaseRef} (h : SampleFrame s w.st) : SampleFrame s (w.unmark a b).st := by
  unfold Work.unmark
  split
  · exact .mark (.on (.onRecord h))
  · exact h

theorem SampleFrame.dispute {a b : PhaseRef} (h : SampleFrame s w.st) : SampleFrame s (w.dispute a b).st := by
  unfold Work.dispute
  split
  · exact .mark (.on (.onRecord h))
  · exact h

theorem SampleFrame.clearPair {a b : PhaseRef} (h : SampleFrame s w.st) : SampleFrame s (w.clearPair a b).st := by
  unfold Work.clearPair
  exact .unmark (.unmark (.on (.onPair h)))

theorem SampleFrame.clearPairs {r : Ref} (h : SampleFrame s w.st) : SampleFrame s (w.clearPairs r).st := by
  unfold Work.clearPairs
  split
  · exact h
  · exact .foldl (fun _ _ h => .clearPair h) _ _ h

theorem SampleFrame.fault {r : Ref} {c : Cause} (h : SampleFrame s w.st) : SampleFrame s (w.fault r c).st := by
  unfold Work.fault
  exact .on (.forgetHistory (.clearPairs (.on (.onRecord (.transition h)))))

theorem SampleFrame.countBad {r : Ref} {c : Cause} (h : SampleFrame s w.st) : SampleFrame s (w.countBad r c).st := by
  unfold Work.countBad
  dsimp only
  split
  · split
    · exact .fault (.on (.onRecord h))
    · exact .on (.onRecord h)
  · exact h

theorem SampleFrame.countGood {r : Ref} (h : SampleFrame s w.st) : SampleFrame s (w.countGood r).st := by
  unfold Work.countGood
  dsimp only
  split
  · split
    · exact .transition (.on (.onRecord h))
    · exact .on (.onRecord h)
  · exact h

theorem SampleFrame.firstSample {r : Ref} (h : SampleFrame s w.st) : SampleFrame s (w.firstSample r).st := by
  unfold Work.firstSample
  split
  · exact .transition h
  · exact h

theorem SampleFrame.resolve {t : Sec} {a b : PhaseRef} {x y : Int} (h : SampleFrame s w.st) :
    SampleFrame s (w.resolve t a b x y).st := by
  unfold Work.resolve
  split
  · exact .unmark (.unmark (.countBad h))
  · split
    · exact .unmark (.dispute h)
    · split
      · exact .unmark (.dispute h)
      · exact .dispute (.dispute h)

theorem SampleFrame.showPersistence {a b : PhaseRef} (h : SampleFrame s u) : SampleFrame s (u.showPersistence a b) := by
  unfold State.showPersistence
  exact .onRecord (.onRecord h)

theorem SampleFrame.compareWith {t : Sec} {a b : PhaseRef} {x : Int} (h : SampleFrame s w.st) :
    SampleFrame s (w.compareWith t a x b).st := by
  unfold Work.compareWith
  split
  · exact h
  · split
    · dsimp only
      generalize hg : w.on _ = w'
      have h' : SampleFrame s w'.st := by rw [← hg]; exact .on (.onPair h)
      split
      · split
        · exact .clearPair h'
        · exact .resolve (.on (.showPersistence h'))
      · exact h'
    · exact h

theorem SampleFrame.compareAll {t : Sec} {a : PhaseRef} {x : Int} (h : SampleFrame s w.st) :
    SampleFrame s (w.compareAll t a x).st := by
  unfold Work.compareAll
  exact .foldl (fun _ _ h => .compareWith h) _ _ h

theorem SampleFrame.hold {r : PhaseRef} {x : PhaseEstimate} {g : Bool} (h : SampleFrame s u) : SampleFrame s (u.hold r x g) := h.rqu _

theorem SampleFrame.spoilHeld {r : Ref} (h : SampleFrame s u) : SampleFrame s (u.spoilHeld r) := h.rqu _

theorem SampleFrame.countChange (h : SampleFrame s u) : SampleFrame s u.countChange := h.rqu _

theorem SampleFrame.keepEstimate {r : Ref} {v : Int} {t : Time} {i : Option WindowInfo} (h : SampleFrame s u) :
    SampleFrame s (u.keepEstimate r v t i) := h.rqu _

theorem SampleFrame.keepHistory {r : PhaseRef} {e : Int} (h : SampleFrame s u) : SampleFrame s (u.keepHistory r e) := by
  unfold State.keepHistory
  split
  · exact h
  · split
    · exact h
    · exact .onRecord h

theorem SampleFrame.takePhase {r : PhaseRef} {x : PhaseEstimate} (h : SampleFrame s w.st) : SampleFrame s (w.takePhase r x).st := by
  unfold Work.takePhase
  dsimp only
  generalize hg : w.on _ = w'
  have h' : SampleFrame s w'.st := by rw [← hg]; exact .on (.keepHistory (.hold h))
  clear hg
  split
  · exact .countBad (.firstSample h')
  · generalize hg : Work.countGood _ _ = w2
    have h2 : SampleFrame s w2.st := by rw [← hg]; exact .countGood (.firstSample (.on (.keepEstimate h')))
    split
    · exact .compareAll h2
    · exact h2

/-- The work of a sample on its record. -/
theorem SampleFrame.take {r : Ref} {x : Sample} (h : SampleFrame s w.st) : SampleFrame s (w.take r x).st := by
  unfold Work.take
  split
  · split
    · exact .on (.hold h)
    · split
      · exact .on (.spoilHeld h)
      · exact h
  · split
    · exact .takePhase h
    · exact .countBad (.firstSample h)
    · exact .countGood (.firstSample (.on (.keepEstimate h)))
    · exact h

theorem SampleFrame.evaluate {t : Trigger} (h : SampleFrame s u) : SampleFrame s (u.evaluate t) := by
  unfold State.evaluate
  dsimp only
  split
  · exact h
  · exact h.rqu _

/-- The end of an event of the Qualifier. -/
theorem SampleFrame.finish {t : Trigger} (h : SampleFrame s w.st) : SampleFrame s (w.finish t) := by
  unfold Work.finish
  dsimp only
  have h' : SampleFrame s (w.st.evaluate t) := .evaluate h
  split
  · exact h'
  · exact .noticeAll (.countChange h')

/-- A sample taken. -/
theorem SampleFrame.sample {r : Ref} {x : Sample} (h : SampleFrame s u) : SampleFrame s (u.sample r x) := by
  unfold State.sample
  split
  · exact h
  · exact .finish (.take h)

/-! ## Events that also reach the front end -/

theorem RquFrame.on {f : State → State} (h : RquFrame s (f w.st)) : RquFrame s (w.on f).st := h

theorem RquFrame.of_sample {v : State} (h : RquFrame s u) (g : SampleFrame u v) : RquFrame s v := h.trans g.toRquFrame

theorem RquFrame.onWindow {k : Port} {f : Window → Window} (h : RquFrame s u) : RquFrame s (u.onWindow k f) := h.rfe _

theorem RquFrame.onPulse {p : PulseIn} {f : PulseInput → PulseInput} (h : RquFrame s u) : RquFrame s (u.onPulse p f) := h.rfe _

theorem RquFrame.stopTimerOf {r : Ref} (h : RquFrame s u) : RquFrame s (u.stopTimerOf r) := by
  unfold State.stopTimerOf
  split
  · exact h.rfe _
  · exact h

theorem RquFrame.zeroCounts {r : Ref} (h : RquFrame s u) : RquFrame s (u.zeroCounts r) := by
  unfold State.zeroCounts
  exact h.of_sample (.onRecord (.refl _))

theorem RquFrame.forgetHistory {r : Ref} (h : RquFrame s u) : RquFrame s (u.forgetHistory r) := h.of_sample (.forgetHistory (.refl _))

theorem RquFrame.expire {r : Ref} (h : RquFrame s w.st) : RquFrame s (w.expire r).st := by
  unfold Work.expire
  split
  · exact .on (.zeroCounts (h.of_sample (.transition (.refl _))))
  · exact .on (.forgetHistory (.stopTimerOf (.zeroCounts (h.of_sample (.transition (.refl _))))))

theorem RquFrame.inhibitEffects {r : Ref} (h : RquFrame s u) : RquFrame s (u.inhibitEffects r) := by
  unfold State.inhibitEffects
  dsimp only
  generalize hg : State.forgetHistory _ _ = v
  have h' : RquFrame s v := by
    rw [← hg]
    exact .forgetHistory ((RquFrame.zeroCounts h).of_sample (.onRecord (.refl _)))
  split
  · exact .onWindow (.onWindow h')
  · exact h'

theorem RquFrame.inhibit {r : Ref} (h : RquFrame s w.st) : RquFrame s (w.inhibit r).st := by
  unfold Work.inhibit
  split
  · exact h
  · have g : RquFrame s ((w.transition r .inhibited .inhibit).on (fun s => s.inhibitEffects r)).st :=
      .on (.inhibitEffects (h.of_sample (.transition (.refl _))))
    exact g.of_sample (.clearPairs (.refl _))

theorem RquFrame.release {r : Ref} (h : RquFrame s w.st) : RquFrame s (w.release r).st := by
  unfold Work.release
  split
  · exact .on (.forgetHistory (.stopTimerOf (.zeroCounts (h.of_sample (.transition (.refl _))))))
  · exact h

/-- A fold over states whose every step keeps the frame keeps it. -/
theorem RquFrame.foldl {α : Type} {f : State → α → State} (step : ∀ v a, RquFrame s v → RquFrame s (f v a)) (xs : List α)
    (u : State) (h : RquFrame s u) : RquFrame s (xs.foldl f u) := by
  induction xs generalizing u with
  | nil => exact h
  | cons x xs ih => exact ih (f u x) (step u x h)

theorem RquFrame.inhibitAtStart (h : RquFrame s u) : RquFrame s u.inhibitAtStart := by
  unfold State.inhibitAtStart
  dsimp only
  generalize hg : State.evaluate _ _ = v
  have h' : RquFrame s v := by
    rw [← hg]
    refine RquFrame.of_sample (RquFrame.foldl (fun v r g => ?_) refs u h) (.evaluate (.refl _))
    split
    · exact .inhibitEffects (g.of_sample (.onRecord (.refl _)))
    · exact g
  split
  · exact h'.of_sample (.countChange (.refl _))
  · exact h'

theorem RquFrame.spendEstimates (h : RquFrame s u) : RquFrame s u.spendEstimates := by
  unfold State.spendEstimates
  exact RquFrame.foldl (fun _ _ g => g.of_sample (.onRecord (.refl _))) _ _ h

theorem RquFrame.sample {r : Ref} {x : Sample} (h : RquFrame s u) : RquFrame s (u.sample r x) := h.of_sample (.sample (.refl _))

theorem RquFrame.emptyWindow {k : Port} (h : RquFrame s u) : RquFrame s (u.emptyWindow k) := h.rfe _

theorem RquFrame.flushWindow {k : Port} (h : RquFrame s u) : RquFrame s (u.flushWindow k) := h.rfe _

/-- A packet window closed. -/
theorem RquFrame.closeWindow {k : Port} (h : RquFrame s u) : RquFrame s (u.closeWindow k) := by
  unfold State.closeWindow
  dsimp only
  split
  · exact .emptyWindow h
  · exact .sample (.emptyWindow h)

theorem RquFrame.appendReport {k : Port} {x : Report} (h : RquFrame s u) : RquFrame s (u.appendReport k x) := by
  unfold State.appendReport
  dsimp only
  split
  · exact .closeWindow (.onWindow h)
  · exact .onWindow h

theorem RquFrame.takeReport {k : Port} {b : PortState} {f : OffsetFields} (h : RquFrame s u) : RquFrame s (u.takeReport k b f) := by
  unfold State.takeReport
  split
  · dsimp only
    split
    · exact .appendReport (.flushWindow h)
    · exact .appendReport h
  · exact h

theorem RquFrame.staleExpiry {k : Port} (h : RquFrame s u) : RquFrame s (u.staleExpiry k) := by
  unfold State.staleExpiry
  dsimp only
  split
  · exact .closeWindow h
  · exact .sample (.emptyWindow h)

theorem SampleFrame.deliverPulse {p : PulseIn} {x : Sample} (h : SampleFrame s u) : SampleFrame s (u.deliverPulse p x) := by
  unfold State.deliverPulse
  dsimp only
  split
  · exact h
  · exact .sample h

theorem RquFrame.keepPulse {p : PulseIn} {e : Int} {t : Time} (h : RquFrame s u) : RquFrame s (u.keepPulse p e t) := by
  unfold State.keepPulse
  dsimp only
  split
  · exact h
  · exact .onPulse h

theorem RquFrame.measurePulse {p : PulseIn} {l : PulseLabel} (h : RquFrame s u) : RquFrame s (u.measurePulse p l) := by
  unfold State.measurePulse
  split
  · exact h.of_sample (.deliverPulse (.refl _))
  · split
    · exact h.of_sample (.deliverPulse (.refl _))
    · dsimp only
      exact .keepPulse (RquFrame.of_sample (.onPulse h) (.deliverPulse (.refl _)))

/-- A pulse handled. -/
theorem RquFrame.pulse {p : PulseIn} (h : RquFrame s u) : RquFrame s (u.pulse p) := by
  unfold State.pulse
  dsimp only
  generalize hg : u.onPulse p PulseInput.endReception = v
  have h' : RquFrame s v := by rw [← hg]; exact .onPulse h
  split
  · exact h'.of_sample (.deliverPulse (.refl _))
  · split
    · exact RquFrame.of_sample (.onPulse h') (.deliverPulse (.refl _))
    · exact .measurePulse (.onPulse h')

theorem SampleFrame.deliver {r : Ref} {x : Option Sample} (h : SampleFrame s u) : SampleFrame s (u.deliver r x) := by
  unfold State.deliver
  split
  · exact h
  · exact .sample h

end

end Sys2Proof.Machine
end

