-- ==== Sys2Proof/Laws/Loop.lean ====
section
/-! SUPPORT. What a loop update is made of: the parts other than the loop's own only take samples, so the loop's part decides every field but
the references, the front end and the queues; and what its hand-on keeps. -/

set_option Elab.async false

namespace Sys2Proof.Machine

open Sys2Proof

section

variable {s u : State}

/-! ## The order of the parts -/

/-- One step of `partOrder`. -/
def addPart (acc : List UpdatePart) (p : UpdatePart) : List UpdatePart := if acc.contains p then acc else List.append acc [p]

theorem partOrder_eq (order : List UpdatePart) :
    partOrder order = (List.append order [.sampleP1, .sampleP2, .sampleF1, .loop]).foldl addPart [] := rfl

theorem addPart_nodup (xs acc : List UpdatePart) (h : acc.Nodup) : (xs.foldl addPart acc).Nodup := by
  induction xs generalizing acc with
  | nil => exact h
  | cons x xs ih =>
    apply ih
    unfold addPart
    split
    · exact h
    · rename_i hx
      simp only [List.contains_eq_mem, decide_eq_true_eq] at hx
      have : (acc ++ [x]).Nodup := by
        rw [List.nodup_append]
        exact ⟨h, List.nodup_singleton x, fun a ha b hb => by simp at hb; subst hb; rintro rfl; exact hx ha⟩
      exact this

theorem addPart_subset (xs acc : List UpdatePart) : acc ⊆ xs.foldl addPart acc := by
  induction xs generalizing acc with
  | nil => exact List.Subset.refl _
  | cons x xs ih =>
    refine List.Subset.trans ?_ (ih _)
    unfold addPart
    split
    · exact List.Subset.refl _
    · exact fun a ha => List.mem_append_left [x] ha

theorem mem_addPart (xs acc : List UpdatePart) (p : UpdatePart) (h : p ∈ xs) : p ∈ xs.foldl addPart acc := by
  induction xs generalizing acc with
  | nil => cases h
  | cons x xs ih =>
    rcases List.mem_cons.1 h with rfl | h
    · apply addPart_subset xs
      unfold addPart
      split
      · rename_i hx; simpa using hx
      · exact List.mem_append_right acc (List.mem_singleton.2 rfl)
    · exact ih _ h

/-- The loop's own part is taken once. -/
theorem partOrder_split (order : List UpdatePart) :
    ∃ pre post, partOrder order = List.append pre (.loop :: post) ∧ .loop ∉ pre ∧ .loop ∉ post := by
  have hm : UpdatePart.loop ∈ partOrder order := by
    rw [partOrder_eq]
    exact mem_addPart _ _ _ (List.mem_append_right order (by decide))
  have hn : (partOrder order).Nodup := by rw [partOrder_eq]; exact addPart_nodup _ _ List.nodup_nil
  obtain ⟨pre, post, e⟩ := List.append_of_mem hm
  rw [e] at hn
  have h2 := List.nodup_append.1 hn
  refine ⟨pre, post, e, fun h => h2.2.2 _ h _ (List.mem_cons_self ..) rfl, (List.nodup_cons.1 h2.2.1).1⟩

/-- An order that begins with the loop's part has it first. -/
theorem partOrder_loop_first (rest : List UpdatePart) : ∃ post, partOrder (.loop :: rest) = .loop :: post ∧ .loop ∉ post := by
  obtain ⟨pre, post, e, h1, h2⟩ := partOrder_split (.loop :: rest)
  have hf : ∀ (xs acc : List UpdatePart), acc.head? = some .loop → (xs.foldl addPart acc).head? = some .loop := by
    intro xs
    induction xs with
    | nil => exact fun _ h => h
    | cons x xs ih =>
      intro acc h
      apply ih
      unfold addPart
      split
      · exact h
      · cases acc with
        | nil => cases h
        | cons a as => exact h
  have hh : (partOrder (.loop :: rest)).head? = some .loop := hf _ [.loop] rfl
  rw [e] at hh
  cases pre with
  | nil => exact ⟨post, e, h2⟩
  | cons a as =>
    have : a = .loop := by simpa using hh
    exact absurd (this ▸ List.mem_cons_self ..) h1

/-! ## The parts -/

theorem closeGates_frame (s : State) : RquFrame s s.closeGates := by
  unfold State.closeGates
  exact RquFrame.rfe (.onPulse (.onPulse (.refl s))) _

theorem updatePart_frame (g : GateSamples) (p : UpdatePart) (h : p ≠ .loop) : SampleFrame s (s.updatePart g p) := by
  unfold State.updatePart
  split
  · exact .deliver (.refl _)
  · exact .deliver (.refl _)
  · exact .deliver (.refl _)
  · exact absurd rfl h

theorem foldl_updatePart_frame (g : GateSamples) (xs : List UpdatePart) (h : .loop ∉ xs) (s : State) :
    SampleFrame s (xs.foldl (State.updatePart g) s) := by
  induction xs generalizing s with
  | nil => exact .refl _
  | cons x xs ih =>
    have hx : x ≠ .loop := fun e => h (e ▸ List.mem_cons_self ..)
    exact (updatePart_frame g x hx).trans (ih (fun hm => h (List.mem_cons_of_mem _ hm)) _)

/-- What an update does: samples, the loop's own part, samples. -/
theorem update_cases (s : State) (order : List UpdatePart) : ∃ v : State, ∃ d : Option Int,
    RquFrame (s.advanceTo (s.tsu.interval / 2)) v ∧ SampleFrame (v.loopPart d) (s.update order) := by
  obtain ⟨pre, post, e, h1, h2⟩ := partOrder_split order
  let a := s.advanceTo (s.tsu.interval / 2)
  have hs : s.update order = (partOrder order).foldl (State.updatePart a.gateSamples) a.closeGates := rfl
  rw [hs, e]
  show ∃ v d, _ ∧ SampleFrame _ ((pre ++ .loop :: post).foldl _ _)
  rw [List.foldl_append, List.foldl_cons]
  exact ⟨_, a.gateSamples.offset, (closeGates_frame a).of_sample (foldl_updatePart_frame _ pre h1 _),
    foldl_updatePart_frame _ post h2 _⟩

/-- What an update whose loop part comes first does: the gates close, the loop's own part, samples. -/
theorem update_loop_first (s : State) (rest : List UpdatePart) :
    SampleFrame ((s.advanceTo (s.tsu.interval / 2)).closeGates.loopPart (s.advanceTo (s.tsu.interval / 2)).gateSamples.offset)
      (s.update (.loop :: rest)) := by
  obtain ⟨post, e, h⟩ := partOrder_loop_first rest
  let a := s.advanceTo (s.tsu.interval / 2)
  have hs : s.update (.loop :: rest) = (partOrder (.loop :: rest)).foldl (State.updatePart a.gateSamples) a.closeGates := rfl
  rw [hs, e, List.foldl_cons]
  exact foldl_updatePart_frame _ post h _

/-! ## Channels and queues -/

theorem ports_foldl (f : State → Port → State) (s : State) : ports.foldl f s = f (f (f (f s .tp0) .tp1) .tp2) .tp3 := rfl

/-- An evaluation of a channel's state: the channel, and its window at a transition to QUIET. -/
theorem evaluateChannel_keeps (s : State) (k : Port) :
    ∃ x w, s.evaluateChannel k = { s with oc := x, rfe := { s.rfe with windows := w } } := by
  unfold State.evaluateChannel
  dsimp only
  split
  · exact ⟨_, _, rfl⟩
  · exact ⟨_, s.rfe.windows, rfl⟩

/-- A budget check: the channel, its window and its port. -/
theorem budgetCheck_keeps (s : State) (k : Port) :
    ∃ x w t, s.budgetCheck k = { s with oc := x, rfe := { s.rfe with windows := w }, tp := t } := by
  unfold State.budgetCheck
  dsimp only
  generalize e : State.onChannel s k _ = v
  have hv : ∃ x, v = { s with oc := x } := ⟨_, e.symm⟩
  obtain ⟨x, rfl⟩ := hv
  obtain ⟨x', w, h⟩ := evaluateChannel_keeps { s with oc := x } k
  rw [h]
  split
  · exact ⟨x', w, s.tp, rfl⟩
  · exact ⟨x', w, _, rfl⟩

theorem budgetChecks_keeps (s : State) :
    ∃ x w t, s.budgetChecks = { s with oc := x, rfe := { s.rfe with windows := w }, tp := t } := by
  unfold State.budgetChecks
  rw [ports_foldl]
  obtain ⟨x0, w0, t0, h0⟩ := budgetCheck_keeps s .tp0
  rw [h0]
  obtain ⟨x1, w1, t1, h1⟩ := budgetCheck_keeps { s with oc := x0, rfe := { s.rfe with windows := w0 }, tp := t0 } .tp1
  rw [h1]
  obtain ⟨x2, w2, t2, h2⟩ := budgetCheck_keeps { s with oc := x1, rfe := { s.rfe with windows := w1 }, tp := t1 } .tp2
  rw [h2]
  obtain ⟨x3, w3, t3, h3⟩ := budgetCheck_keeps { s with oc := x2, rfe := { s.rfe with windows := w2 }, tp := t2 } .tp3
  exact ⟨x3, w3, t3, h3⟩

/-- The time marks change the queues alone. -/
theorem timeMarks_keeps (s : State) : ∃ t, s.timeMarks = { s with tp := t } := by
  have step : ∀ (v : State) (k : Port), ∃ t, (if (v.oc.get k).settings.timeMarks then v.notice k .timeMark (v.timeMark k) else v) =
      { v with tp := t } := by
    intro v k
    split
    · exact ⟨_, rfl⟩
    · exact ⟨v.tp, rfl⟩
  unfold State.timeMarks
  rw [ports_foldl]
  obtain ⟨t0, h0⟩ := step s .tp0
  rw [h0]
  obtain ⟨t1, h1⟩ := step { s with tp := t0 } .tp1
  rw [h1]
  obtain ⟨t2, h2⟩ := step { s with tp := t1 } .tp2
  rw [h2]
  obtain ⟨t3, h3⟩ := step { s with tp := t2 } .tp3
  exact ⟨t3, h3⟩

/-- A health report: the verdict and the queues. -/
theorem reportHealth_keeps (s before : State) : ∃ t, s.reportHealth before = { s.recompute with tp := t } := by
  unfold State.reportHealth
  dsimp only
  split
  · exact ⟨s.recompute.tp, rfl⟩
  · exact ⟨_, rfl⟩

/-! ## The hand-on of an update -/

/-- The Learning Unit's part of an update changes its own state alone. -/
theorem learnUpdate_keeps (s : State) (old : Engine) (x : LoopInput) : ∃ l, s.learnUpdate old x = { s with lrn := l } := by
  have hl : ∀ c, ∃ l, s.learn c = { s with lrn := l } := by
    intro c
    unfold State.learn
    split
    · exact ⟨s.lrn, rfl⟩
    · exact ⟨_, rfl⟩
  unfold State.learnUpdate
  split
  · obtain ⟨l, e⟩ := hl (followedChanged old s.dlp.engine)
    dsimp only
    rw [e]
    split
    · exact ⟨l, rfl⟩
    · exact ⟨_, rfl⟩
  · exact ⟨_, rfl⟩

/-- The end of an update: the steering, the LRN, class and B, the channels with their windows, the queues, and the count of epochs. -/
theorem handOn_keeps (r : Decision) (before : State) (x : LoopInput) : ∃ l c w t,
    r.handOn before x =
      { r.st with
        sdc := r.st.sdc.take r.st.site r.st.dlp.fOut, lrn := l, oc := c, rfe := { r.st.rfe with windows := w }, tp := t
        tsu := { r.st.tsu with
          cls := deriveClass r.st.site r.st.dlp.engine (deriveBound r.st.site r.st.dlp r.st.hop.bound)
          bound := deriveBound r.st.site r.st.dlp r.st.hop.bound }
        hop := { r.st.hop with epochs := 0 } } := by
  unfold Decision.handOn
  dsimp only
  obtain ⟨l, e1⟩ := learnUpdate_keeps r.st.steer before.dlp.engine x
  rw [e1]
  obtain ⟨t1, e2⟩ := reportHealth_keeps { r.st.steer with lrn := l } before
  rw [e2]
  generalize hv : State.derive _ = v
  have ha : ∃ t, v.announce before = { v with tp := t } := by
    unfold State.announce
    split
    · exact ⟨v.tp, rfl⟩
    · exact ⟨_, rfl⟩
  obtain ⟨t2, e3⟩ := ha
  rw [e3]
  obtain ⟨c, w, t3, e4⟩ := budgetChecks_keeps { v with tp := t2 }
  rw [e4]
  have hm : ∀ (y : State) (n : Int), ∃ t, y.correctMarks n = { y with tp := t } := by
    intro y n
    unfold State.correctMarks
    split
    · exact ⟨y.tp, rfl⟩
    · exact timeMarks_keeps y
  obtain ⟨t4, e5⟩ := hm { v with tp := t3, oc := c, rfe := { v.rfe with windows := w } } r.whole
  refine ⟨({ r.st.steer with lrn := l } : State).recompute.lrn, c, w, t4, ?_⟩
  subst hv
  exact congrArg State.restartEpochs e5

end

end Sys2Proof.Machine
end

