-- ==== Sys2Proof/Laws/Update.lean ====
section
/-! SUPPORT. What a loop update decides: the part as the loop finds it, what it reads there, and the terms of the statements in the model's
own operations. -/

set_option Elab.async false

namespace Sys2Proof.Machine

open Sys2Proof Sys2Proof.Safety

/-! ## The part as the loop finds it -/

theorem takeWhile_pre (pre post : List UpdatePart) (h : .loop ∉ pre) :
    (pre ++ .loop :: post).takeWhile (fun p => p != .loop) = pre := by
  induction pre with
  | nil => rfl
  | cons x xs ih =>
    have hx : x ≠ .loop := fun e => h (e ▸ List.mem_cons_self ..)
    rw [List.cons_append, List.takeWhile_cons, if_pos (by simpa using hx), ih (fun hm => h (List.mem_cons_of_mem _ hm))]

/-- A loop update is the loop's own part, and samples around it. -/
theorem update_atLoop (s : State) (order : List UpdatePart) :
    SampleFrame ((atLoop order s).loopPart (gateOffset s)) (s.update order) := by
  obtain ⟨pre, post, e, h1, h2⟩ := partOrder_split order
  let a := s.advanceTo (s.tsu.interval / 2)
  have hs : s.update order = (partOrder order).foldl (State.updatePart a.gateSamples) a.closeGates := rfl
  have hv : atLoop order s = pre.foldl (State.updatePart a.gateSamples) a.closeGates := by
    unfold atLoop
    dsimp only
    rw [e]
    show ((pre ++ _).takeWhile _).foldl _ _ = _
    rw [takeWhile_pre _ _ h1]
  rw [hs, hv, e]
  show SampleFrame _ ((pre ++ .loop :: post).foldl _ _)
  rw [List.foldl_append, List.foldl_cons]
  exact foldl_updatePart_frame _ post h2 _

/-- What the samples before the loop leave as it was. -/
theorem atLoop_frame (s : State) (order : List UpdatePart) : RquFrame (s.advanceTo (s.tsu.interval / 2)) (atLoop order s) := by
  obtain ⟨pre, post, e, h1, h2⟩ := partOrder_split order
  let a := s.advanceTo (s.tsu.interval / 2)
  have hv : atLoop order s = pre.foldl (State.updatePart a.gateSamples) a.closeGates := by
    unfold atLoop
    dsimp only
    rw [e]
    show ((pre ++ _).takeWhile _).foldl _ _ = _
    rw [takeWhile_pre _ _ h1]
  rw [hv]
  exact (closeGates_frame a).of_sample (foldl_updatePart_frame _ pre h1 _)

/-- The fields that the samples before the loop keep. -/
theorem frame_site {s v : State} (h : RquFrame (s.advanceTo (s.tsu.interval / 2)) v) : v.site = s.site ∧ v.sdc = s.sdc ∧ v.dlp = s.dlp ∧
    v.hop = s.hop ∧ v.lrn = s.lrn ∧ v.ssq = s.ssq ∧ v.tsu.seconds = s.tsu.seconds ∧ v.tsu.remainder = s.tsu.remainder ∧
    v.tsu.traceable = s.tsu.traceable :=
  ⟨by rw [State.site, h.sst]; rfl, h.sdc, h.dlp, h.hop, h.lrn, h.ssq, by rw [h.tsu]; rfl, by rw [h.tsu]; rfl, by rw [h.tsu]; rfl⟩

/-- What a loop update leaves is what it decided at the loop (R70, R72). -/
theorem update_decided (s : State) (order : List UpdatePart) (h : s.running = true) :
    ∃ u v : State, exec (.loopUpdate order) s = .next u ∧ RquFrame (s.advanceTo (s.tsu.interval / 2)) v ∧
      v = (atLoop order s).spendEstimates ∧
      let r := v.decideUpdate ((atLoop order s).readLoop (gateOffset s))
      u.dlp = r.st.dlp ∧ u.hop = { r.st.hop with epochs := 0 } ∧
      u.sdc = r.st.sdc.take r.st.site r.st.dlp.fOut ∧
      u.tsu = { r.st.tsu with
          cls := deriveClass r.st.site r.st.dlp.engine (deriveBound r.st.site r.st.dlp r.st.hop.bound)
          bound := deriveBound r.st.site r.st.dlp r.st.hop.bound } ∧
      u.lrn = (r.handOn (atLoop order s) ((atLoop order s).readLoop (gateOffset s))).lrn := by
  have hf := update_atLoop s order
  obtain ⟨l, c, w, t, e⟩ := handOn_keeps ((atLoop order s).spendEstimates.decideUpdate ((atLoop order s).readLoop (gateOffset s)))
    (atLoop order s) ((atLoop order s).readLoop (gateOffset s))
  refine ⟨_, _, exec_loopUpdate s h order, .spendEstimates (atLoop_frame s order), rfl, ?_⟩
  have e' : (atLoop order s).loopPart (gateOffset s) = _ := e
  refine ⟨?_, ?_, ?_, ?_, ?_⟩
  · rw [hf.dlp, e']
  · rw [hf.hop, e']
  · rw [hf.sdc, e']
  · rw [hf.tsu, e']
  · rw [hf.lrn]; rfl

theorem usable_read (s : State) (d : Option Int) (r : PhaseRef) (x : PhaseEstimate) (h : Usable s r x) :
    s.readLoop d = { selected := some r, estimate := some x, f1 := s.f1Available, offset := d } := by
  obtain ⟨h1, h2, h3⟩ := h
  unfold State.readLoop State.usable
  simp only [h1, Option.bind_some, h2, h3]
  simp

theorem noneUsable_read (s : State) (d : Option Int) (h : NoneUsable s) : (s.readLoop d).estimate = none := by
  unfold State.readLoop State.usable
  dsimp only
  cases hs : s.rqu.selected with
  | none => rfl
  | some r =>
    simp only [Option.bind_some]
    cases hh : (s.record (.phase r)).held with
    | none => rfl
    | some y =>
      have := h r hs y (by simp [hh])
      dsimp only
      rw [if_neg]
      simp only [Bool.and_eq_true, not_and]
      intro ha hb
      rcases this with h | h | h
      · rw [h] at ha; exact absurd ha.1 (by simp)
      · rw [h] at ha; exact absurd ha.2 (by simp)
      · cases hd : s.dlp.settling with
        | none => exact h hd
        | some n => rw [hd] at hb; simp at hb

theorem f1Available_eq (s : State) : s.f1Available = decide ((s.record .f1).state = .qualified) := by
  unfold State.f1Available; cases (s.record .f1).state <;> rfl

/-! ## The terms -/

theorem withheld_iff (v s : State) (hsite : v.site = s.site) (hsdc : v.sdc = s.sdc) (raw di : Int) :
    withheld v.pull v.sdc raw di = true ↔ Withheld s raw di := by
  unfold withheld Withheld State.pull sameSign
  rw [hsite, hsdc]
  by_cases h0 : di = 0
  · subst h0; simp
  · simp only [bne_iff_ne, ne_eq, h0, not_false_eq_true, Bool.or_eq_true, Bool.and_eq_true, decide_eq_true_eq, beq_iff_eq,
      and_true]
    cases s.sdc.atLimit <;> cases s.sdc.steering <;> simp [AtLimit.cuts]

theorem integrate_eq (v s : State) (hsite : v.site = s.site) (hsdc : v.sdc = s.sdc) (i di p : Int) :
    integrate v.pull v.sdc i di p = integralAfter s i di p := by
  unfold integrate integralAfter
  have := withheld_iff v s hsite hsdc (nearest (i + di) 256 + p) di
  have hp : v.pull = s.site.val .pullRange := by unfold State.pull; rw [hsite]
  by_cases hw : Withheld s (nearest (i + di) 256 + p) di
  · rw [if_pos hw, if_pos (this.2 hw), hp]
  · rw [if_neg hw, if_neg (fun h => hw (this.1 h)), hp]

theorem useEstimate_eq (v s : State) (hsite : v.site = s.site) (hsdc : v.sdc = s.sdc) (d : Dlp) (n delta : Nat) (x : PhaseEstimate) :
    ({ v.useEstimate d n delta x with firstEstimate := false, sinceEstimate := 0 } : Dlp) = estimateUsed s d n delta x := by
  unfold State.useEstimate estimateUsed
  dsimp only
  rw [integrate_eq v s hsite hsdc]
  unfold State.slewLimit loopOutput
  have hp : v.pull = s.site.val .pullRange := by unfold State.pull; rw [hsite]
  rw [hp, hsite]

theorem steps_iff (v s : State) (hs : v.site = s.site) (d : Dlp) (x : PhaseEstimate) :
    v.steps d x = true ↔ d.firstEstimate = true ∧ StepsOut s x := by
  unfold State.steps StepsOut
  rw [hs]; simp [and_assoc]

theorem takeZero_eq (v s : State) (hs : v.site = s.site) (d : Dlp) (r : PhaseRef) (x : PhaseEstimate) :
    ({ v.takeZero d x.coarse with engine := .acquiring r, firstEstimate := false, sinceEstimate := 0 } : Dlp) = estimateStepped s d r x := by
  unfold State.takeZero estimateStepped loopOutput State.pull
  dsimp only
  rw [hs, Int.add_zero]

theorem ordinary_decided (v s : State) (hs : v.site = s.site) (d : Dlp) (r : PhaseRef) (x : PhaseEstimate) :
    v.ordinaryStep d r x = v.stepped (estimateStepped s d r x) ⟨false, 0, x.e⟩ := by
  unfold State.ordinaryStep
  rw [takeZero_eq v s hs]

theorem assisted_eq (v s : State) (hsite : v.site = s.site) (hsdc : v.sdc = s.sdc) (bias i : Int) (f1 : Bool) (hf : f1 = true) (d : Option Int) :
    (match (LoopInput.steering { selected := none, estimate := none, f1 := f1, offset := d }) with
      | none => clampAbs (256 * v.pull) i
      | some d => integrate v.pull v.sdc i (f1Increment (v.site.nat .f1Bandwidth) (d - bias)) 0) = assistedAfter s bias i d := by
  subst hf
  unfold LoopInput.steering assistedAfter
  have hp : v.pull = s.site.val .pullRange := by unfold State.pull; rw [hsite]
  cases d with
  | none => simp [hp]
  | some d =>
    simp only [if_true]
    rw [integrate_eq v s hsite hsdc, hsite]
    rfl

/-- What a step leaves of the time scale and of settling (R7, R84). -/
theorem stepTaken (s v : State) (d : Dlp) (q : StepRequest) (u : State)
    (hsec : v.tsu.seconds = s.tsu.seconds) (hrem : v.tsu.remainder = s.tsu.remainder)
    (h1 : u.tsu.seconds = (({ v with dlp := d } : State).issue q).tsu.seconds)
    (h2 : u.tsu.remainder = (({ v with dlp := d } : State).issue q).tsu.remainder)
    (h3 : u.dlp = (({ v with dlp := d } : State).issue q).dlp) :
    StepTaken s u q.whole q.ps ∧ u.dlp = { d with settling := u.dlp.settling } := by
  have hsp := splitSeconds_spec (s.tsu.remainder.getD 0 + q.ps)
  refine ⟨⟨splitSeconds (s.tsu.remainder.getD 0 + q.ps), ?_, ?_, ?_, ?_, ?_⟩, ?_⟩
  · omega
  · omega
  · rw [h1]
    show v.tsu.seconds + BitVec.ofInt 48 (q.whole + splitSeconds (v.tsu.remainder.getD 0 + q.ps)) = _
    rw [hsec, hrem]
  · rw [h2]
    show (if splitRemainder (v.tsu.remainder.getD 0 + q.ps) = 0 then (none : Option Int)
      else some (splitRemainder (v.tsu.remainder.getD 0 + q.ps))).getD 0 = _
    rw [hrem]
    split
    · simp only [Option.getD_none]; omega
    · simp only [Option.getD_some]; omega
  · rw [h3, h2]
    show some ((({ v with dlp := d } : State).issue q).tsu.settling) = _
    unfold Tsu.settling
    generalize (({ v with dlp := d } : State).issue q).tsu.remainder = z
    cases z <;> rfl
  · rw [h3]; rfl

/-! ## Holdover -/

theorem notice_hop (s : State) (c : Bool) :
    (s.noticeEpisode c).hop = s.hop ∧ (s.noticeEpisode c).dlp = s.dlp ∧ (s.noticeEpisode c).lrn = s.lrn ∧
    (s.noticeEpisode c).sst = s.sst ∧ (s.noticeEpisode c).sdc = s.sdc ∧ (s.noticeEpisode c).ssq = s.ssq ∧ (s.noticeEpisode c).tsu = s.tsu ∧
    (s.noticeEpisode c).rqu = s.rqu := by
  unfold State.noticeEpisode; split <;> exact ⟨rfl, rfl, rfl, rfl, rfl, rfl, rfl, rfl⟩

theorem ceil_bound (u sc : Nat) : boundOf u sc = (u * sc + 255999) / 256000 := by
  unfold boundOf
  have := ceiling_nat (u * sc) 256000 (by norm_num)
  rw [show ((256000 : Int)) = ((256000 : Nat) : Int) from rfl, this]
  congr 1

theorem learnUpdate_left (s : State) (old : Engine) (x : LoopInput) (h : s.dlp.engine.isLocked = false) (ho : s.lrn.openBin = none) :
    (s.learnUpdate old x).lrn = s.lrn := by
  unfold State.learnUpdate
  rw [h]
  simp only [Bool.false_eq_true, if_false]
  unfold State.closeOpenBin Lrn.closeBin
  rw [ho]

theorem learnUpdate_model (s : State) (old : Engine) (x : LoopInput) (h : s.dlp.engine.isLocked = false) (ho : s.lrn.openBin = none) :
    (s.learnUpdate old x).lrn.model = s.lrn.model := by rw [learnUpdate_left s old x h ho]

theorem report_model (s b : State) : (s.reportHealth b).lrn.model = s.lrn.model := by
  obtain ⟨t, e⟩ := reportHealth_keeps s b
  rw [e]; rfl

theorem handOn_model (r : Decision) (b : State) (x : LoopInput) (h : r.st.dlp.engine.isLocked = false) (ho : r.st.lrn.openBin = none) :
    (r.handOn b x).lrn.model = r.st.lrn.model := by
  unfold Decision.handOn
  dsimp only
  have h1 : ∀ y : State, (y.restartEpochs).lrn = y.lrn := fun _ => rfl
  rw [h1]
  have h2 : ∀ (y : State) n, (y.correctMarks n).lrn = y.lrn := by
    intro y n; unfold State.correctMarks; split
    · rfl
    · obtain ⟨t, e⟩ := timeMarks_keeps y; rw [e]
  rw [h2]
  have h3 : ∀ y : State, y.budgetChecks.lrn = y.lrn := by
    intro y; obtain ⟨a, b, c, e⟩ := budgetChecks_keeps y; rw [e]
  rw [h3]
  have h4 : ∀ y z : State, (y.announce z).lrn = y.lrn := by
    intro y z; unfold State.announce; split <;> rfl
  rw [h4]
  show (State.reportHealth _ _).lrn.model = _
  rw [report_model, learnUpdate_model r.st.steer _ _ h ho]
  rfl

theorem closeBin_open (l : Lrn) (a : Bool) : (l.closeBin a).openBin = none := by
  unfold Lrn.closeBin
  split
  · assumption
  · split <;> rfl

theorem decided_st (s : State) (d : Dlp) : (s.decided d).st = { s with dlp := d } := rfl

theorem tempTerm_eq (s : State) : s.tempTerm = temperatureOf s.lrn.model s.toscAlarm s.tosc s.hop.baseTemp := by
  unfold State.tempTerm State.baseLookups temperatureOf
  cases s.tosc with
  | none => cases s.hop.baseTemp <;> rfl
  | some t =>
    cases s.hop.baseTemp with
    | none => cases h : (s.lrn.model.lookup s.toscAlarm t).value <;> simp [h]
    | some tb =>
      cases h : (s.lrn.model.lookup s.toscAlarm t).value <;> cases h' : (s.lrn.model.lookup s.toscAlarm tb).value <;> simp [h, h']

theorem agingTerm_eq (s : State) : s.agingTerm = agingOf s.lrn.model s.tsu.seconds s.hop.baseTime := rfl

theorem tempUncertainty_eq (s : State) : s.tempUncertainty = temperatureDoubt s.lrn.model s.toscAlarm s.tosc s.hop.baseTemp := by
  unfold State.tempUncertainty State.baseLookups temperatureDoubt
  cases s.tosc <;> cases s.hop.baseTemp <;> simp

theorem spread_eq (n : Nat) : (ceiling (n : Int) 4).toNat = (n + 3) / 4 := by
  have := ceiling_nat n 4 (by norm_num)
  rw [show ((4 : Int)) = ((4 : Nat) : Int) from rfl, this]
  congr 1

/-- An update of a PREDICTED holdover (R121 to R128, R134). -/
theorem hold_predicted (v : State) (m : HoldMode) (fPrev : Int) (d : Option Int) :
    let base : Hop := if m = .assisted then
        { v.hop with
          baseSource := .live, f0 := fPrev, baseTime := v.tsu.seconds, baseTemp := v.tosc, eBase := max 2 (v.site.nat .f1Uncertainty) }
      else v.hop
    let time := min (v.hop.time + v.hop.epochs) 4294967295
    let increment := 16 * base.eBase + 16 * temperatureDoubt v.lrn.model v.toscAlarm v.tosc base.baseTemp +
      (nearest (agingDoubt v.lrn.model * time : Nat) 86400).toNat
    let uncertainty := min (v.hop.uncertainty + increment) 16000000000000
    ∃ terms, terms.u16 = increment ∧ v.holdoverUpdate m .predicted fPrev d =
      ({ v with hop := { base with
          time := time, integral := clampAbs (256 * v.pull) v.hop.integral, uncertainty := uncertainty, terms := terms
          bound := (uncertainty * v.hop.scoreInUse + 255999) / 256000 } },
        clampAbs v.pull (base.f0 + agingOf v.lrn.model v.tsu.seconds base.baseTime +
              temperatureOf v.lrn.model v.toscAlarm v.tosc base.baseTemp)) := by
  have hmx : Config.maxUncertainty = 16000000000000 := rfl
  cases m with
  | predicted =>
    intro base time increment uncertainty
    let v0 : State := { v with hop := { v.hop with time := time } }
    refine ⟨v0.predictedTerms v0.predictedIncrement, ?_, ?_⟩
    · show v0.predictedIncrement = _
      unfold State.predictedIncrement
      rw [tempUncertainty_eq]; rfl
    · have hup : v.holdoverUpdate .predicted .predicted fPrev d =
            ({ v0 with hop := { v0.hop with integral := v0.keptIntegral }.accumulate (v0.predictedTerms v0.predictedIncrement) },
              v0.holdFrequency) := rfl
      rw [hup]
      unfold Hop.accumulate Hop.formBound State.holdFrequency
      rw [tempTerm_eq, agingTerm_eq]
      have hinc : (v0.predictedTerms v0.predictedIncrement).u16 = increment := by
        show v0.predictedIncrement = _
        unfold State.predictedIncrement
        rw [tempUncertainty_eq]; rfl
      dsimp only
      rw [ceil_bound, hinc]
      unfold limitUncertainty
      rw [hmx]
      rfl
  | assisted =>
    intro base time increment uncertainty
    let v0 : State := { v with hop := { base with time := time } }
    refine ⟨v0.predictedTerms v0.predictedIncrement, ?_, ?_⟩
    · show v0.predictedIncrement = _
      unfold State.predictedIncrement
      rw [tempUncertainty_eq]; rfl
    · have hup : v.holdoverUpdate .assisted .predicted fPrev d =
            ({ v0 with hop := { v0.hop with integral := v0.keptIntegral }.accumulate (v0.predictedTerms v0.predictedIncrement) },
              v0.holdFrequency) := rfl
      rw [hup]
      unfold Hop.accumulate Hop.formBound State.holdFrequency
      rw [tempTerm_eq, agingTerm_eq]
      have hinc : (v0.predictedTerms v0.predictedIncrement).u16 = increment := by
        show v0.predictedIncrement = _
        unfold State.predictedIncrement
        rw [tempUncertainty_eq]; rfl
      dsimp only
      rw [ceil_bound, hinc]
      unfold limitUncertainty
      rw [hmx]
      rfl

/-- An update of an ASSISTED holdover (R127 to R129, R134). -/
theorem hold_assisted (v : State) (m : HoldMode) (fPrev : Int) (d : Option Int) :
    let integral := v.assistedIntegral (if m = .predicted then 256 * fPrev else v.hop.integral) d
    let increment := 16 * v.site.nat .f1Uncertainty
    let uncertainty := min (v.hop.uncertainty + increment) 16000000000000
    v.holdoverUpdate m .assisted fPrev d =
      ({ v with hop := { v.hop with
          time := min (v.hop.time + v.hop.epochs) 4294967295, integral := integral, uncertainty := uncertainty, terms := assistedTerms increment
          bound := (uncertainty * v.hop.scoreInUse + 255999) / 256000 } },
        clampAbs v.pull (nearest integral 256)) := by
  have hmx : Config.maxUncertainty = 16000000000000 := rfl
  cases m with
  | predicted =>
    dsimp only [State.holdoverUpdate]
    unfold Hop.accumulate Hop.formBound loopOutput
    dsimp only
    rw [ceil_bound, Int.add_zero]
    unfold limitUncertainty
    rw [hmx]
    rfl
  | assisted =>
    dsimp only [State.holdoverUpdate]
    unfold Hop.accumulate Hop.formBound loopOutput
    dsimp only
    rw [ceil_bound, Int.add_zero]
    unfold limitUncertainty
    rw [hmx]
    rfl

/-! ## What a decision can change -/

/-- What an update's decision can change: the time scale, the loop's record, the Predictor, the queues, and the open bin, which it may
close (R71, R95). -/
theorem decideUpdate_keeps (v : State) (x : LoopInput) :
    let u := (v.decideUpdate x).st
    (u.lrn = v.lrn ∨ u.lrn = v.lrn.closeBin v.toscAlarm) ∧
    u = { v with tsu := u.tsu, dlp := u.dlp, hop := u.hop, tp := u.tp, lrn := u.lrn } := by
  have hn : ∀ (a : State) b, ∃ t, a.noticeEpisode b = { a with tp := t } := by
    intro a b
    unfold State.noticeEpisode
    split <;> exact ⟨_, rfl⟩
  have hlose : ∀ f, let u := (v.loseReference f x).st; (u.lrn = v.lrn ∨ u.lrn = v.lrn.closeBin v.toscAlarm) ∧
      u = { v with tsu := u.tsu, dlp := u.dlp, hop := u.hop, tp := u.tp, lrn := u.lrn } := by
    intro f
    unfold State.loseReference State.enterHoldover State.decided
    dsimp only
    generalize hw : State.enterSteering _ _ _ = w
    obtain ⟨t, e⟩ := hn w.1 false
    rw [e]
    have : w.1 = { v with lrn := v.lrn.closeBin v.toscAlarm, hop := w.1.hop } := by
      rw [← hw]
      unfold State.enterSteering
      split <;> rfl
    rw [this]
    exact ⟨.inr rfl, rfl⟩
  have hfol : ∀ f, let u := (v.decideFollowing f x).st; (u.lrn = v.lrn ∨ u.lrn = v.lrn.closeBin v.toscAlarm) ∧
      u = { v with tsu := u.tsu, dlp := u.dlp, hop := u.hop, tp := u.tp, lrn := u.lrn } := by
    intro f
    unfold State.decideFollowing
    split
    · exact hlose f
    · unfold State.follow
      dsimp only
      split
      · exact ⟨.inl rfl, rfl⟩
      · split
        · exact ⟨.inl rfl, rfl⟩
        · split <;> exact ⟨.inl rfl, rfl⟩
    · exact ⟨.inl rfl, rfl⟩
  intro u
  dsimp only [u]
  unfold State.decideUpdate
  split
  · split <;> exact ⟨.inl rfl, rfl⟩
  · exact hfol _
  · exact hfol _
  · split
    · rename_i e _ _
      unfold State.regain State.exitHoldover
      obtain ⟨t, h⟩ := hn { v with hop := v.hop.closeEpisode e.e } true
      rw [h]
      dsimp only
      split <;> exact ⟨.inl rfl, rfl⟩
    · unfold State.runHoldover State.holdoverUpdate
      dsimp only
      split
      · split <;> exact ⟨.inl rfl, rfl⟩
      · split <;> exact ⟨.inl rfl, rfl⟩

/-- An update's decision leaves the channels, the front end and the settings. -/
theorem decideUpdate_rest (v : State) (x : LoopInput) : (v.decideUpdate x).st.oc = v.oc ∧ (v.decideUpdate x).st.rfe = v.rfe ∧
    (v.decideUpdate x).st.site = v.site := by
  obtain ⟨_, e⟩ := decideUpdate_keeps v x
  refine ⟨by rw [e], by rw [e], ?_⟩
  unfold State.site
  rw [e]

/-- An update whose decision ends in LOCKED changes the loop's record alone (R71, R80, R83, R88, R91). -/
theorem decideUpdate_locked (v : State) (x : LoopInput) (h : (v.decideUpdate x).st.dlp.engine.isLocked = true) :
    (v.decideUpdate x).st = { v with dlp := (v.decideUpdate x).st.dlp } := by
  have hlose : ∀ f, (v.loseReference f x).st.dlp.engine.isLocked = false := fun f => rfl
  have hfol : ∀ f, (v.decideFollowing f x).st.dlp.engine.isLocked = true → (v.decideFollowing f x).st = { v with dlp := (v.decideFollowing f x).st.dlp } := by
    intro f
    unfold State.decideFollowing
    split
    · intro h; rw [hlose] at h; cases h
    · unfold State.follow
      dsimp only
      split
      · intro h; cases h
      · split
        · exact fun _ => rfl
        · split <;> exact fun _ => rfl
    · exact fun _ => rfl
  revert h
  unfold State.decideUpdate
  split
  · split
    · intro h; cases h
    · exact fun _ => rfl
  · exact hfol _
  · exact hfol _
  · split
    · unfold State.regain
      dsimp only
      split <;> (intro h; cases h)
    · intro h; cases h

/-! ## Learning at an update -/

/-- The LRN after the hand-on of an update is what the learning left, but for the verdict (R98, R100, R109, R114). -/
theorem handOn_lrn (r : Decision) (b : State) (x : LoopInput) :
    (r.handOn b x).lrn = { (r.st.steer.learnUpdate b.dlp.engine x).lrn with verdict := (r.handOn b x).lrn.verdict } := by
  have key : ∃ v, (r.handOn b x).lrn = { (r.st.steer.learnUpdate b.dlp.engine x).lrn with verdict := v } := by
    unfold Decision.handOn
    dsimp only
    have h1 : ∀ y : State, (y.restartEpochs).lrn = y.lrn := fun _ => rfl
    rw [h1]
    have h2 : ∀ (y : State) n, (y.correctMarks n).lrn = y.lrn := by
      intro y n; unfold State.correctMarks; split
      · rfl
      · obtain ⟨t, e⟩ := timeMarks_keeps y; rw [e]
    rw [h2]
    have h3 : ∀ y : State, y.budgetChecks.lrn = y.lrn := by
      intro y; obtain ⟨a, b, c, e⟩ := budgetChecks_keeps y; rw [e]
    rw [h3]
    have h4 : ∀ y z : State, (y.announce z).lrn = y.lrn := by
      intro y z; unfold State.announce; split <;> rfl
    rw [h4]
    obtain ⟨t, e⟩ := reportHealth_keeps (r.st.steer.learnUpdate b.dlp.engine x) b
    refine ⟨(r.st.steer.learnUpdate b.dlp.engine x).recompute.lrn.verdict, ?_⟩
    show (State.reportHealth _ _).lrn = _
    rw [e]; rfl
  obtain ⟨v, e⟩ := key
  rw [e]

theorem closeBin_twice (l : Lrn) (a : Bool) : (l.closeBin a).closeBin a = l.closeBin a := by
  have h := closeBin_open l a
  generalize l.closeBin a = m at *
  unfold Lrn.closeBin; rw [h]

/-- The close of the open bin, if any, in one record (R100). -/
theorem closeBin_eq (l : Lrn) (a : Bool) : l.closeBin a = { l with
    openBin := none
    model := match l.openBin with
      | none => l.model
      | some o => if o.samples < 300 then l.model else l.model.keep a o.close } := by
  obtain ⟨m, o, _, _, _, _, _, _, _⟩ := l
  unfold Lrn.closeBin
  dsimp only
  cases o with
  | none => rfl
  | some o => dsimp only; split <;> rfl

/-- A learning sample (R98). -/
theorem lrn_sample (l : Lrn) (a : Bool) (now : Sec) (i temp : Int) (d : Bool) :
    let o : OpenBin := match l.openBin with
      | none => { start := now, finish := now, samples := 1, sumI := i, sumT := temp, maxI := i, minI := i, disturbed := d }
      | some o => { o with
          finish := now, samples := o.samples + 1, sumI := o.sumI + i, sumT := o.sumT + temp, maxI := max o.maxI i
          minI := min o.minI i, disturbed := o.disturbed || d }
    l.sample a now i temp d = if o.samples = 900 then { l with openBin := some o }.closeBin a else { l with openBin := some o } := by
  unfold Lrn.sample
  cases l.openBin <;> rfl

/-! ## The F1 gate -/

theorem loopPart_frame_f1 (s : State) (d) : (s.loopPart d).rfe.f1 = s.rfe.f1 := by
  unfold State.loopPart
  obtain ⟨l, c, w, t, h⟩ := handOn_keeps (s.spendEstimates.decideUpdate (s.readLoop d)) s (s.readLoop d)
  rw [h]
  show (s.spendEstimates.decideUpdate (s.readLoop d)).st.rfe.f1 = _
  rw [(decideUpdate_rest s.spendEstimates (s.readLoop d)).2.1]
  rfl

theorem updatePart_f1 (g p) (s : State) : (s.updatePart g p).rfe.f1 = s.rfe.f1 := by
  by_cases h : p = .loop
  · subst h; exact loopPart_frame_f1 s _
  · exact (updatePart_frame g p h).f1

/-- The F1 input after a loop update is as the gate's close leaves it (R27, R28). -/
theorem update_f1 (s : State) (order) : (s.update order).rfe.f1 = (s.advanceTo (s.tsu.interval / 2)).closeGate.2 := by
  unfold State.update
  dsimp only
  have : ∀ (xs : List UpdatePart) (g) (v : State), (xs.foldl (State.updatePart g) v).rfe.f1 = v.rfe.f1 := by
    intro xs
    induction xs with
    | nil => exact fun _ _ => rfl
    | cons x xs ih => intro g v; rw [List.foldl_cons, ih, updatePart_f1]
  rw [this]; rfl

end Sys2Proof.Machine
end

