-- ==== Sys2Proof/Laws/Channels.lean ====
section
/-! SUPPORT. What the output channels' shared operations do: an evaluation of the state, a change of the settings, a budget check, and what a
loop update leaves of each channel and its window. -/

set_option Elab.async false

namespace Sys2Proof.Machine

open Sys2Proof Sys2Proof.Safety

/-- An evaluation of a channel's state: the state, and at a transition to QUIET the end of the pulse and the flush (R161). -/
theorem evaluateChannel_spec (s : State) (k : Port) :
    let c := s.oc.get k
    let x := c.evaluated s.tsu.traceable
    let quieted : Bool := decide (c.state = .active ∧ x ≠ .active)
    s.evaluateChannel k = { s with
      oc := s.oc.set k { c with
        state := x
        pulseEnd := if quieted then none else c.pulseEnd
        linePolarity := if quieted then c.settings.polarity else c.linePolarity }
      rfe := if quieted then { s.rfe with windows := s.rfe.windows.set k (flushed s k) } else s.rfe } := by
  have hq : ∀ x : ChannelState, (x.isQuiet = true) = (x ≠ .active) := by intro x; cases x <;> simp [ChannelState.isQuiet]
  intro c x quieted
  have e : s.evaluateChannel k = if c.state = .active ∧ x ≠ .active then
      (s.onChannel k (fun c => { c with state := x }.endPulse)).flushWindow k else s.onChannel k (fun c => { c with state := x }) := by
    unfold State.evaluateChannel
    dsimp only
    simp only [hq]
    rfl
  rw [e]
  by_cases h : c.state = .active ∧ x ≠ .active
  · have hb : quieted = true := by simp [quieted, h]
    rw [if_pos h, hb]; rfl
  · have hb : quieted = false := by simp only [quieted, h, decide_false]
    rw [if_neg h, hb]; rfl

/-- The settings applied to a channel (R159, R161, R162). -/
theorem applyChannel_spec (s : State) (k : Port) (x : ChannelSettings) :
    let c := s.oc.get k
    let n := { c with settings := x }.evaluated s.tsu.traceable
    let moved : Bool := decide (x.delay ≠ c.settings.delay)
    let quieted : Bool := decide (c.state = .active ∧ n ≠ .active)
    s.applyChannel k x = { s with
      oc := s.oc.set k { c with
        settings := x
        state := n
        openingServed := c.openingServed || (moved && decide (x.delay < 0 ∨ 1000 * x.delay < (s.tsu.phase : Int)))
        closingServed := c.closingServed || (moved && decide (x.delay < 0 ∧ (s.tsu.interval : Int) + 1000 * x.delay < s.tsu.phase))
        pulseEnd := if quieted then none else c.pulseEnd
        linePolarity := if quieted = true ∨ c.pulseEnd = none then x.polarity else c.linePolarity }
      rfe := if moved || quieted then { s.rfe with windows := s.rfe.windows.set k (flushed s k) } else s.rfe } := by
  intro c n moved quieted
  let c1 : Channel := { c with
        settings := x
        openingServed := c.openingServed || (moved && decide (x.delay < 0 ∨ 1000 * x.delay < (s.tsu.phase : Int)))
        closingServed := c.closingServed || (moved && decide (x.delay < 0 ∧ (s.tsu.interval : Int) + 1000 * x.delay < s.tsu.phase))
        linePolarity := if c.pulseEnd = none then x.polarity else c.linePolarity }
  have h1 : c.apply x s.tsu.phase s.tsu.interval = c1 := by
    have hd : (1000 * x.delay < 0) = (x.delay < 0) := by apply propext; omega
    by_cases h : x.delay = c.settings.delay
    · have hm : moved = false := by simp [moved, h]
      unfold Channel.apply
      simp only [h, if_true, c1, hm, Bool.false_and, Bool.or_false, Option.isNone_iff_eq_none]
    · have hm : moved = true := by simp [moved, h]
      unfold Channel.apply Channel.adjustMarks
      simp only [h, if_false, c1, hm, Bool.true_and, Option.isNone_iff_eq_none, ChannelSettings.delayPs, hd, Bool.or_assoc,
        Channel.mk.injEq, Bool.decide_or, Bool.decide_and, true_and, and_true]
      constructor <;> congr
  have h2 : s.applyChannel k x = (if moved = true then (s.onChannel k (fun _ => c1)).flushWindow k else s.onChannel k (fun _ => c1)).evaluateChannel k := by
    have : s.onChannel k (fun c => c.apply x s.tsu.phase s.tsu.interval) = s.onChannel k (fun _ => c1) := by
      unfold State.onChannel; exact congrArg (fun y => { s with oc := s.oc.set k y }) h1
    rw [← this]; rfl
  have hn : c1.evaluated s.tsu.traceable = n := rfl
  have fin : ∀ (v : State), v.oc = s.oc.set k c1 → v.tsu = s.tsu → v.site = s.site →
      v.evaluateChannel k = { v with
        oc := s.oc.set k { c1 with
          state := n
          pulseEnd := if quieted then none else c.pulseEnd
          linePolarity := if quieted = true ∨ c.pulseEnd = none then x.polarity else c.linePolarity }
        rfe := if quieted then { v.rfe with windows := v.rfe.windows.set k (flushed v k) } else v.rfe } := by
    intro v h3 h4 h5
    have hg : v.oc.get k = c1 := by rw [h3]; exact perPort_get_set_same _ _ _
    rw [evaluateChannel_spec]
    simp only [hg, h4, hn]
    rw [h3, perPort_set_set]
    cases hq : quieted with
    | false =>
      have hq' : decide (c1.state = .active ∧ n ≠ .active) = false := hq
      simp only [hq', Bool.false_eq_true, if_false, false_or]
      rfl
    | true =>
      have hq' : decide (c1.state = .active ∧ n ≠ .active) = true := hq
      simp only [hq', if_true, true_or]
      rfl
  rw [h2]
  cases hm : moved with
  | false =>
    rw [if_neg (by simp), fin (s.onChannel k (fun _ => c1)) rfl rfl rfl]
    have e1 : c1.openingServed = (c.openingServed || (false && decide (x.delay < 0 ∨ 1000 * x.delay < (s.tsu.phase : Int)))) := by rw [← hm]
    have e2 : c1.closingServed = (c.closingServed || (false && decide (x.delay < 0 ∧ (s.tsu.interval : Int) + 1000 * x.delay < s.tsu.phase))) := by rw [← hm]
    rw [← e1, ← e2]; rfl
  | true =>
    rw [if_pos rfl, fin ((s.onChannel k (fun _ => c1)).flushWindow k) rfl rfl rfl]
    have e1 : c1.openingServed = (c.openingServed || (true && decide (x.delay < 0 ∨ 1000 * x.delay < (s.tsu.phase : Int)))) := by rw [← hm]
    have e2 : c1.closingServed = (c.closingServed || (true && decide (x.delay < 0 ∧ (s.tsu.interval : Int) + 1000 * x.delay < s.tsu.phase))) := by rw [← hm]
    rw [← e1, ← e2]
    have hw : flushed ((s.onChannel k (fun _ => c1)).flushWindow k) k = flushed s k := by
      unfold flushed
      simp only [State.flushWindow, State.onWindow, State.onChannel, perPort_get_set_same, Option.map_map]
      rfl
    rw [hw]
    have hx : ((s.onChannel k (fun _ => c1)).flushWindow k).rfe = { s.rfe with windows := s.rfe.windows.set k (flushed s k) } := rfl
    rw [hx, perPort_set_set, ite_self]
    rfl

/-- A channel after a budget check by a bound (R165, R161). -/
def checkedChannel (x : Tsu) (c : Channel) : Channel :=
  let c1 := { c with overBudget := budgetFlag c.overBudget x.bound c.settings.limit }
  let n := c1.evaluated x.traceable
  let quieted : Bool := decide (c.state = .active ∧ n ≠ .active)
  { c1 with
    state := n
    pulseEnd := if quieted then none else c.pulseEnd
    linePolarity := if quieted then c.settings.polarity else c.linePolarity }

/-- A channel enters QUIET. -/
def quietedBy (c c' : Channel) : Bool := decide (c.state = .active ∧ c'.state ≠ .active)

/-- A budget check: the channel, and its window where it enters QUIET (R165, R161, R37). -/
theorem budgetCheck_spec (s : State) (k : Port) :
    let c := s.oc.get k
    let c' := checkedChannel s.tsu c
    ∃ t, s.budgetCheck k = { s with
      oc := s.oc.set k c'
      rfe := if quietedBy c c' then { s.rfe with windows := s.rfe.windows.set k (flushed s k) } else s.rfe
      tp := t } := by
  intro c c'
  unfold State.budgetCheck
  dsimp only
  rw [evaluateChannel_spec]
  have hg : (s.onChannel k (fun c => { c with overBudget := budgetFlag (s.oc.get k).overBudget s.tsu.bound (s.oc.get k).settings.limit })).oc.get k =
      { c with overBudget := budgetFlag c.overBudget s.tsu.bound c.settings.limit } := perPort_get_set_same _ _ _
  simp only [hg]
  have hw : flushed (s.onChannel k (fun c => { c with overBudget := budgetFlag (s.oc.get k).overBudget s.tsu.bound (s.oc.get k).settings.limit })) k =
    flushed s k := rfl
  rw [hw]
  simp only [State.onChannel, perPort_set_set]
  split
  · exact ⟨s.tp, rfl⟩
  · exact ⟨_, rfl⟩

/-- The budget checks: each channel by the bound, and the window of one that enters QUIET flushed (R165, R161, R37). -/
theorem budgetChecks_spec (s : State) (k : Port) :
    let c := s.oc.get k
    let c' := checkedChannel s.tsu c
    s.budgetChecks.oc.get k = c' ∧ s.budgetChecks.rfe.windows.get k = if quietedBy c c' then flushed s k else s.rfe.windows.get k := by
  intro c c'
  -- what one check does to a port's channel and window
  have one : ∀ (v : State) (j : Port), v.tsu = s.tsu → v.site = s.site →
      (v.budgetCheck j).tsu = s.tsu ∧ (v.budgetCheck j).site = s.site ∧
      ∀ i, (i ≠ j → (v.budgetCheck j).oc.get i = v.oc.get i ∧ (v.budgetCheck j).rfe.windows.get i = v.rfe.windows.get i) ∧
        (i = j → v.oc.get i = s.oc.get i → v.rfe.windows.get i = s.rfe.windows.get i →
          (v.budgetCheck j).oc.get i = checkedChannel s.tsu (s.oc.get i) ∧
          (v.budgetCheck j).rfe.windows.get i =
            if quietedBy (s.oc.get i) (checkedChannel s.tsu (s.oc.get i)) then flushed s i else s.rfe.windows.get i) := by
    intro v j h1 h2
    obtain ⟨t, e⟩ := budgetCheck_spec v j
    rw [e]
    refine ⟨h1, h2, fun i => ⟨fun h => ⟨perPort_get_set_other _ _ _ _ h, ?_⟩, fun h h3 h4 => ?_⟩⟩
    · dsimp only
      split
      · exact perPort_get_set_other _ _ _ _ h
      · rfl
    · subst h
      rw [h1, h3]
      refine ⟨perPort_get_set_same _ _ _, ?_⟩
      have hf : flushed v i = flushed s i := by unfold flushed; rw [h4, h2]
      dsimp only
      split
      · rw [hf]; exact perPort_get_set_same _ _ _
      · exact h4
  unfold State.budgetChecks
  rw [ports_foldl]
  obtain ⟨a1, a2, a3⟩ := one s .tp0 rfl rfl
  obtain ⟨b1, b2, b3⟩ := one (s.budgetCheck .tp0) .tp1 a1 a2
  obtain ⟨c1, c2, c3⟩ := one ((s.budgetCheck .tp0).budgetCheck .tp1) .tp2 b1 b2
  obtain ⟨d1, d2, d3⟩ := one (((s.budgetCheck .tp0).budgetCheck .tp1).budgetCheck .tp2) .tp3 c1 c2
  cases k with
  | tp0 =>
    obtain ⟨x1, y1⟩ := (a3 .tp0).2 rfl rfl rfl
    obtain ⟨x2, y2⟩ := (b3 .tp0).1 (by decide)
    obtain ⟨x3, y3⟩ := (c3 .tp0).1 (by decide)
    obtain ⟨x4, y4⟩ := (d3 .tp0).1 (by decide)
    exact ⟨x4.trans (x3.trans (x2.trans x1)), y4.trans (y3.trans (y2.trans y1))⟩
  | tp1 =>
    obtain ⟨x1, y1⟩ := (a3 .tp1).1 (by decide)
    obtain ⟨x2, y2⟩ := (b3 .tp1).2 rfl x1 y1
    obtain ⟨x3, y3⟩ := (c3 .tp1).1 (by decide)
    obtain ⟨x4, y4⟩ := (d3 .tp1).1 (by decide)
    exact ⟨x4.trans (x3.trans x2), y4.trans (y3.trans y2)⟩
  | tp2 =>
    obtain ⟨x1, y1⟩ := (a3 .tp2).1 (by decide)
    obtain ⟨x2, y2⟩ := (b3 .tp2).1 (by decide)
    obtain ⟨x3, y3⟩ := (c3 .tp2).2 rfl (x2.trans x1) (y2.trans y1)
    obtain ⟨x4, y4⟩ := (d3 .tp2).1 (by decide)
    exact ⟨x4.trans x3, y4.trans y3⟩
  | tp3 =>
    obtain ⟨x1, y1⟩ := (a3 .tp3).1 (by decide)
    obtain ⟨x2, y2⟩ := (b3 .tp3).1 (by decide)
    obtain ⟨x3, y3⟩ := (c3 .tp3).1 (by decide)
    exact (d3 .tp3).2 rfl (x3.trans (x2.trans x1)) (y3.trans (y2.trans y1))

/-- The close of the gates leaves the windows. -/
theorem closeGates_windows (s : State) : s.closeGates.rfe.windows = s.rfe.windows := rfl

/-- The samples before the loop leave the windows. -/
theorem atLoop_windows (s : State) (order : List UpdatePart) : (atLoop order s).rfe.windows = s.rfe.windows := by
  obtain ⟨pre, post, e, h1, h2⟩ := partOrder_split order
  let a := s.advanceTo (s.tsu.interval / 2)
  have hv : atLoop order s = pre.foldl (State.updatePart a.gateSamples) a.closeGates := by
    unfold atLoop
    dsimp only
    rw [e]
    show ((pre ++ _).takeWhile _).foldl _ _ = _
    rw [takeWhile_pre _ _ h1]
  rw [hv]
  exact (foldl_updatePart_frame _ pre h1 _).windows

/-- What the hand-on of an update leaves of a channel and its window (R165, R161). -/
theorem handOn_channels (r : Decision) (before : State) (x : LoopInput) (k : Port) :
    let u := r.handOn before x
    let c' := checkedChannel u.tsu (r.st.oc.get k)
    u.oc.get k = c' ∧ u.rfe.windows.get k =
      if quietedBy (r.st.oc.get k) c' then flushed r.st k else r.st.rfe.windows.get k := by
  intro u c'
  have hm : ∀ (y : State) (n : Int), ∃ t, y.correctMarks n = { y with tp := t } := by
    intro y n
    unfold State.correctMarks
    split
    · exact ⟨y.tp, rfl⟩
    · exact timeMarks_keeps y
  have ha : ∀ y : State, ∃ t, y.announce before = { y with tp := t } := by
    intro y
    unfold State.announce
    split
    · exact ⟨y.tp, rfl⟩
    · exact ⟨_, rfl⟩
  obtain ⟨l, e1⟩ := learnUpdate_keeps r.st.steer before.dlp.engine x
  obtain ⟨t1, e2⟩ := reportHealth_keeps (r.st.steer.learnUpdate before.dlp.engine x) before
  obtain ⟨t2, e3⟩ := ha ((r.st.steer.learnUpdate before.dlp.engine x).reportHealth before).derive
  let v := (((r.st.steer.learnUpdate before.dlp.engine x).reportHealth before).derive).announce before
  have hv : v.oc = r.st.oc ∧ v.rfe = r.st.rfe ∧ v.site = r.st.site := by
    show State.oc (State.announce _ _) = _ ∧ State.rfe (State.announce _ _) = _ ∧ State.site (State.announce _ _) = _
    rw [e3, e2, e1]; exact ⟨rfl, rfl, rfl⟩
  obtain ⟨t3, e4⟩ := hm v.budgetChecks r.whole
  have hu : u = (v.budgetChecks.correctMarks r.whole).restartEpochs := rfl
  obtain ⟨y1, y2, y3, e5⟩ := budgetChecks_keeps v
  have hut : u.tsu = v.tsu := by rw [hu, e4, e5]; rfl
  have hs := budgetChecks_spec v k
  dsimp only at hs
  rw [hv.1, hv.2.1, ← hut] at hs
  have hfl : flushed v k = flushed r.st k := by unfold flushed; rw [hv.2.1, hv.2.2]
  rw [hfl] at hs
  have h1 : u.oc = v.budgetChecks.oc := by rw [hu, e4]; rfl
  have h2 : u.rfe = v.budgetChecks.rfe := by rw [hu, e4]; rfl
  rw [h1, h2]
  exact hs

end Sys2Proof.Machine
end

