-- ==== Sys2Proof/Laws/Learning.lean ====
section
/-! SUPPORT. What the Learning Unit's operations do: the temperature-rate gate at a minute mark, the warm-up, and the end of a sensor
sequence. -/

set_option Elab.async false

namespace Sys2Proof.Machine

open Sys2Proof Sys2Proof.Safety

/-- The temperature-rate gate in one record (R97). -/
theorem minuteMark_eq (l : Lrn) (limit : Int) (tosc : Option Int) (now : Sec) :
    l.minuteMark limit tosc now =
      (let trips : Bool := match l.minuteTemp, tosc with
        | some t0, some t => decide (limit < ((t - t0).natAbs : Int))
        | _, _ => false
       { l with
          minuteTemp := tosc
          openBin := l.openBin.map (fun o => { o with disturbed := o.disturbed || trips })
          rateTrips := if trips then min 65535 (l.rateTrips + 1) else l.rateTrips
          lastTrip := if trips then some now else l.lastTrip }) := by
  have key : ∀ b : Bool, ({ (if b then { l.disturb with rateTrips := satSucc 65535 l.rateTrips, lastTrip := some now } else l) with
      minuteTemp := tosc } : Lrn) = { l with
          minuteTemp := tosc
          openBin := l.openBin.map (fun o => { o with disturbed := o.disturbed || b })
          rateTrips := if b then min 65535 (l.rateTrips + 1) else l.rateTrips
          lastTrip := if b then some now else l.lastTrip } := by
    intro b
    cases b with
    | true => simp [Lrn.disturb, satSucc_eq_min]
    | false => simp
  unfold Lrn.minuteMark
  cases l.minuteTemp <;> cases tosc <;> exact key _

/-- A warm-up step disturbs the open bin where it changes to WARMING (R96, R99). -/
theorem warm_openBin (l : Lrn) (x : SiteRecord) (i : Int) :
    (l.warm x i).openBin = l.openBin.map (fun o => { o with disturbed := o.disturbed || decide (l.warmup = .settled ∧ (l.warm x i).warmup = .warming) }) := by
  obtain ⟨m, o, w, _, _, _, _, _, _⟩ := l
  unfold Lrn.warm
  cases w <;> cases decide (i ≤ x.val .settleCurrent) <;> dsimp only
  · simp
  · split <;> simp
  · split
    · simp [Lrn.disturb]
    · simp
  · simp

/-- What the end of a sequence leaves of the LRN: the bin disturbed, the warm-up moved, the verdict recomputed (R96, R99, R114). -/
theorem completeSequence_lrn (s : State) (raw : RawCounts) :
    let u := s.completeSequence raw
    ∃ b : Bool, b = decide ((s.sdc.steering = .normal ∧ u.sdc.steering = .held) ∨
        (u.ssq.alarms.tosc.state ≠ .inRange ∧ u.ssq.alarms.tosc.state ≠ s.ssq.alarms.tosc.state)) ∧
      u.lrn = { (match u.ssq.results.iovn with
        | none => if b then s.lrn.disturb else s.lrn
        | some i => (if b then s.lrn.disturb else s.lrn).warm s.site i) with verdict := u.lrn.verdict } := by
  intro u
  let q := s.ssq.complete s.site raw
  let d := s.sdc.readbackStep s.site q.results.vctl
  let v : State := { s with ssq := q, sdc := d }
  let w : State := if v.disturbedSince s then { v with lrn := v.lrn.disturb } else v
  obtain ⟨tp, e⟩ := reportHealth_keeps w.warmStep s
  have hu : u = { w.warmStep.recompute with tp := tp } := e
  have hw : w = { v with lrn := if v.disturbedSince s then s.lrn.disturb else s.lrn } := by
    show (if v.disturbedSince s then { v with lrn := v.lrn.disturb } else v) = _
    split <;> rfl
  have h1 : u.ssq = q := by
    rw [hu, hw]; show (State.warmStep _).ssq = _
    unfold State.warmStep; split <;> rfl
  have h2 : u.sdc = d := by
    rw [hu, hw]; show (State.warmStep _).sdc = _
    unfold State.warmStep; split <;> rfl
  refine ⟨v.disturbedSince s, ?_, ?_⟩
  · rw [h1, h2]
    unfold State.disturbedSince
    show ((d.steering == .held && s.sdc.steering == .normal) || (AlarmState.raised q.alarms.tosc.state && q.alarms.tosc.state != s.ssq.alarms.tosc.state)) = _
    cases d.steering <;> cases s.sdc.steering <;> cases q.alarms.tosc.state <;> cases s.ssq.alarms.tosc.state <;> rfl
  · rw [h1]
    have : u.lrn = { w.warmStep.lrn with verdict := u.lrn.verdict } := by rw [hu]; rfl
    rw [this]
    have h3 : w.warmStep.lrn = (match q.results.iovn with
        | none => if v.disturbedSince s then s.lrn.disturb else s.lrn
        | some i => (if v.disturbedSince s then s.lrn.disturb else s.lrn).warm s.site i) := by
      rw [hw]
      unfold State.warmStep
      show (match q.results.iovn with | none => _ | some i => _ : State).lrn = _
      cases q.results.iovn <;> rfl
    rw [h3]

end Sys2Proof.Machine
end

