-- ==== Sys2Proof/Laws/Qualifier.lean ====
section
/-! SUPPORT. What the Reference Qualifier's shared operations do: what each leaves of a record, of the pairs, of the held estimate and of the
estimates a pulse input remembers; the order of a window's reports; the bytes of a companion record. -/

set_option Elab.async false

namespace Sys2Proof.Machine

open Sys2Proof Sys2Proof.Safety

/-! ## Records and transitions -/

/-- The states that count samples (R47). -/
theorem counts_iff (x : RefState) : x.counts = true ↔ x = .observing ∨ x = .qualified := by cases x <;> simp [RefState.counts]

/-- Two changes of one record are one. -/
theorem onRecord_onRecord (s : State) (r : Ref) (f g : RefRecord → RefRecord) :
    (s.onRecord r f).onRecord r g = s.onRecord r (fun y => g (f y)) := by
  have hs : ∀ (x : PerRef RefRecord) (v w : RefRecord), (x.set r v).set r w = x.set r w := by
    intro x v w
    cases r with
    | f1 => rfl
    | phase r => cases r with
      | pulse p => cases p <;> rfl
      | packet k => cases k <;> rfl
  simp only [State.onRecord, hs, State.record, perRef_get_set_same]

/-- A transition changes the one record: its state and its trail (R55, R56). -/
theorem record_transition (w : Work) (r q : Ref) (x : RefState) (c : Cause) :
    (w.transition r x c).st.record q = if q = r then
      { w.st.record r with state := x, trail := enterTrail w.st.tsu.seconds x c (w.st.record r).trail } else w.st.record q := by
  unfold Work.transition
  exact record_onRecord _ _ _ _

/-- The entry of the state entered stands first in the trail (R56). -/
theorem enterTrail_head (now : Sec) (x : RefState) (c : Cause) (trail : List TrailEntry) :
    ∃ e es, enterTrail now x c trail = e :: es ∧ e.state = x := by
  unfold enterTrail
  dsimp only
  split
  · exact ⟨_, _, rfl, rfl⟩
  · rename_i y hy
    split
    · refine ⟨_, _, rfl, ?_⟩
      have := List.find?_some hy
      simpa using this
    · exact ⟨_, _, rfl, rfl⟩

/-- The hold-off on entry to FAULTED is that of the entry it made or renewed (R57). -/
theorem holdOffOf_enterTrail (base : Nat) (now : Sec) (c : Cause) (trail : List TrailEntry) :
    ∀ e ∈ (enterTrail now .faulted c trail).head?, holdOffOf base (enterTrail now .faulted c trail) = base * 2 ^ min (e.repeats - 1) 4 := by
  obtain ⟨e, es, h, he⟩ := enterTrail_head now .faulted c trail
  intro e' he'
  rw [h] at he' ⊢
  simp only [List.head?_cons, Option.mem_some_iff] at he'
  subst he'
  simp [holdOffOf, he]

/-! ## Dispute flags and pairs -/

/-- A record but for the fields of a dispute. -/
def RefRecord.plain (y : RefRecord) : RefRecord := { y with partner := none, persistence := 0 }

/-- What clearing a dispute flag leaves of the records (R62; log entry 39). -/
theorem record_unmark (w : Work) (a b : PhaseRef) (r : Ref) :
    (w.unmark a b).st.record r = if r = .phase a ∧ (w.st.record (.phase a)).partner = some b
      then { w.st.record r with partner := none, persistence := 0 } else w.st.record r := by
  unfold Work.unmark
  split
  · rename_i h
    simp only [Work.mark, Work.on, record_onRecord, h, and_true]
    split
    · rename_i e; rw [e]
    · rfl
  · rename_i h; simp [h]

/-- What marking a reference leaves of the records (R61). -/
theorem record_dispute (w : Work) (a b : PhaseRef) (r : Ref) :
    (w.dispute a b).st.record r = if r = .phase a ∧ (w.st.record (.phase a)).partner = none
      then { w.st.record r with partner := some b, persistence := 0 } else w.st.record r := by
  unfold Work.dispute
  split
  · rename_i h
    simp only [Work.mark, Work.on, record_onRecord, h, and_true]
    split
    · rename_i e; rw [e]
    · rfl
  · rename_i h; simp [h]

theorem unmark_plain (w : Work) (a b : PhaseRef) (r : Ref) : ((w.unmark a b).st.record r).plain = (w.st.record r).plain := by
  unfold Work.unmark
  split
  · simp only [Work.mark, Work.on, record_onRecord]
    split
    · rename_i e; subst e; rfl
    · rfl
  · rfl

theorem clearPair_plain (w : Work) (a b : PhaseRef) (r : Ref) : ((w.clearPair a b).st.record r).plain = (w.st.record r).plain := by
  unfold Work.clearPair
  rw [unmark_plain, unmark_plain]; rfl

theorem foldl_clearPair_plain (a : PhaseRef) (xs : List PhaseRef) (w : Work) (r : Ref) :
    ((xs.foldl (fun w b => w.clearPair a b) w).st.record r).plain = (w.st.record r).plain := by
  induction xs generalizing w with
  | nil => rfl
  | cons x xs ih => rw [List.foldl_cons, ih, clearPair_plain]

/-- Clearing the pairs of a reference changes the dispute fields of records alone. -/
theorem clearPairs_plain (w : Work) (q r : Ref) : ((w.clearPairs q).st.record r).plain = (w.st.record r).plain := by
  unfold Work.clearPairs
  split
  · rfl
  · exact foldl_clearPair_plain _ _ _ _

theorem unmark_pairs (w : Work) (a b : PhaseRef) : (w.unmark a b).st.rqu.pairs = w.st.rqu.pairs := by
  unfold Work.unmark; split <;> rfl

theorem dispute_pairs (w : Work) (a b : PhaseRef) : (w.dispute a b).st.rqu.pairs = w.st.rqu.pairs := by
  unfold Work.dispute; split <;> rfl

/-- A pair's entry after it is changed. -/
theorem pair_onPair (s : State) (a b : PhaseRef) (f : PairEntry → PairEntry) (p : PairEntry)
    (hp : s.rqu.pairs.find? (fun q => q.joins a b) = some p) (hf : ∀ q : PairEntry, (f q).a = q.a ∧ (f q).b = q.b) :
    (s.onPair a b f).pair a b = f p := by
  unfold State.pair State.onPair
  have : ∀ xs : List PairEntry, xs.find? (fun q => q.joins a b) = some p →
      (xs.map (fun q => if q.joins a b then f q else q)).find? (fun q => q.joins a b) = some (f p) := by
    intro xs
    induction xs with
    | nil => intro h; cases h
    | cons x xs ih =>
      intro h
      simp only [List.map_cons, List.find?_cons] at h ⊢
      by_cases hx : x.joins a b = true
      · simp only [hx] at h
        injection h with h
        subst h
        have : (f x).joins a b = true := by
          have := hf x
          simp only [PairEntry.joins, this] at hx ⊢; exact hx
        simp [hx, this]
      · have hx' : x.joins a b = false := by simpa using hx
        simp only [hx'] at h
        simpa [hx'] using ih h
  rw [this _ hp]; rfl

/-- A pair that has left dispute (R62). -/
def PairEntry.cleared (p : PairEntry) : PairEntry := { p with disagreeRun := 0, agreeRun := 0, inDispute := false }

/-- A pair that has no runs and is not in dispute. -/
def PairEntry.isClear (q : PairEntry) : Prop := q.disagreeRun = 0 ∧ q.agreeRun = 0 ∧ q.inDispute = false

theorem clearPair_pairs (w : Work) (a b : PhaseRef) :
    (w.clearPair a b).st.rqu.pairs = w.st.rqu.pairs.map (fun p => if p.joins a b then p.cleared else p) := by
  unfold Work.clearPair
  rw [unmark_pairs, unmark_pairs]; rfl

theorem foldl_clearPair_pairs (a : PhaseRef) (xs : List PhaseRef) (w : Work) :
    ∀ q ∈ (xs.foldl (fun w b => w.clearPair a b) w).st.rqu.pairs, ∃ q0 ∈ w.st.rqu.pairs, q.a = q0.a ∧ q.b = q0.b ∧
      ((∃ b ∈ xs, q.joins a b = true) ∨ q0.isClear → q.isClear) := by
  induction xs generalizing w with
  | nil => exact fun q hq => ⟨q, hq, rfl, rfl, by simp⟩
  | cons x xs ih =>
    intro q hq
    rw [List.foldl_cons] at hq
    obtain ⟨q1, h1, ha, hb, hc⟩ := ih _ q hq
    rw [clearPair_pairs] at h1
    obtain ⟨q0, h0, rfl⟩ := List.mem_map.1 h1
    have hj : q.joins a x = q0.joins a x := by
      have : (if q0.joins a x then q0.cleared else q0).a = q0.a ∧ (if q0.joins a x then q0.cleared else q0).b = q0.b := by
        split <;> exact ⟨rfl, rfl⟩
      unfold PairEntry.joins
      rw [ha, hb, this.1, this.2]
    refine ⟨q0, h0, by rw [ha]; split <;> rfl, by rw [hb]; split <;> rfl, ?_⟩
    rintro (⟨b, hbm, hbj⟩ | hcl)
    · rcases List.mem_cons.1 hbm with rfl | hbm
      · apply hc; right
        rw [hj] at hbj
        simp [hbj, PairEntry.isClear, PairEntry.cleared]
      · exact hc (.inl ⟨b, hbm, hbj⟩)
    · apply hc; right
      split
      · simp [PairEntry.isClear, PairEntry.cleared]
      · exact hcl

/-- What entry to FAULTED leaves of the record (R50, R57). -/
theorem fault_record (w : Work) (r : Ref) (c : Cause) :
    let y := w.st.record r
    let trail := enterTrail w.st.tsu.seconds .faulted c y.trail
    let hold := holdOffOf (w.st.site.nat .holdOffBase) trail
    ((w.fault r c).st.record r).plain = { y with
      state := .faulted, trail := trail, faultCount := w.st.faultLimit r, goodRun := 0, currentHoldOff := hold, holdOff := hold, history := []
      : RefRecord }.plain := by
  dsimp only
  unfold Work.fault
  dsimp only
  generalize hg : Work.on (w.transition r .faulted c) _ = w1
  have h1 : w1.st.record r = { w.st.record r with
      state := .faulted, trail := enterTrail w.st.tsu.seconds .faulted c (w.st.record r).trail, faultCount := w.st.faultLimit r
      goodRun := 0
      currentHoldOff := holdOffOf (w.st.site.nat .holdOffBase) (enterTrail w.st.tsu.seconds .faulted c (w.st.record r).trail)
      holdOff := holdOffOf (w.st.site.nat .holdOffBase) (enterTrail w.st.tsu.seconds .faulted c (w.st.record r).trail) } := by
    rw [← hg]
    simp only [Work.on, record_onRecord_same, record_transition, if_true]
    rfl
  have h2 := clearPairs_plain w1 r r
  rw [h1] at h2
  have h3 : ∀ s : State, (s.forgetHistory r).record r = { s.record r with history := [] } := by
    intro s
    unfold State.forgetHistory
    dsimp only
    split
    · exact record_onRecord_same s (.phase (.pulse _)) (fun y => { y with history := [] })
    · exact record_onRecord_same _ _ _
  simp only [Work.on, h3]
  have : ∀ y z : RefRecord, y.plain = z.plain → ({ y with history := [] } : RefRecord).plain = { z with history := [] : RefRecord }.plain := by
    intro y z h
    simp only [RefRecord.plain, RefRecord.mk.injEq] at h ⊢
    simp_all
  rw [this _ _ h2]

/-- Entry to FAULTED clears every pair that holds the reference (R50). -/
theorem fault_pairs (w : Work) (a : PhaseRef) (c : Cause) :
    ∀ q ∈ (w.fault (.phase a) c).st.rqu.pairs, q.a ≠ q.b → (q.a = a ∨ q.b = a) → q.isClear := by
  unfold Work.fault
  dsimp only
  generalize Work.on (w.transition _ _ _) _ = w1
  intro q hq hne ha
  have hp : ((w1.clearPairs (.phase a)).on (fun s => s.forgetHistory (.phase a))).st.rqu.pairs = (w1.clearPairs (.phase a)).st.rqu.pairs := by
    simp only [Work.on, State.forgetHistory]
    split <;> rfl
  rw [hp] at hq
  obtain ⟨q0, -, -, -, h⟩ := foldl_clearPair_pairs a _ w1 q hq
  apply h
  left
  rcases ha with rfl | rfl
  · refine ⟨q.b, List.mem_filter.2 ⟨mem_phaseRefs _, by simpa using Ne.symm hne⟩, by simp [PairEntry.joins]⟩
  · refine ⟨q.a, List.mem_filter.2 ⟨mem_phaseRefs _, by simpa using hne⟩, by simp [PairEntry.joins]⟩

/-- Showing the persistence changes the persistence alone (R61). -/
theorem showPersistence_record (s : State) (a b : PhaseRef) (r : Ref) :
    ∃ n, (s.showPersistence a b).record r = { s.record r with persistence := n } := by
  have one : ∀ (v : State) (c d : PhaseRef) (run : Nat), ∃ n,
      (v.onRecord (.phase c) (fun y => if y.partner = some d then { y with persistence := run } else y)).record r =
        { v.record r with persistence := n } := by
    intro v c d run
    rw [record_onRecord]
    split
    · rename_i e; subst e
      split
      · exact ⟨_, rfl⟩
      · exact ⟨_, rfl⟩
    · exact ⟨_, rfl⟩
  unfold State.showPersistence
  dsimp only
  obtain ⟨n, h⟩ := one s a b (s.pair a b).agreeRun
  obtain ⟨n', h'⟩ := one (s.onRecord (.phase a) (fun y => if y.partner = some b then { y with persistence := (s.pair a b).agreeRun } else y))
    b a (s.pair a b).agreeRun
  exact ⟨n', by rw [h', h]⟩

theorem recent_congr (s u : State) (t : Sec) (c : PhaseRef) (h1 : (u.record (.phase c)).state = (s.record (.phase c)).state)
    (h2 : (u.record (.phase c)).lastEstimate = (s.record (.phase c)).lastEstimate) : u.recent t c = s.recent t c := by
  unfold State.recent
  simp only [h1, h2]

/-- Which member is outvoted rests on the records' states and last estimates and on the settings. -/
theorem outvoted_congr (s u : State) (t : Sec) (a b : PhaseRef) (ea eb : Int)
    (h : ∀ c, u.recent t c = s.recent t c) (hs : u.site = s.site) : u.outvoted t a b ea eb = s.outvoted t a b ea eb := by
  unfold State.outvoted
  simp only [h, State.disagree, hs]

/-! ## The held estimate: only the taking of a sample replaces it -/

theorem finish_record (w : Work) (t : Trigger) (r : Ref) : (w.finish t).record r = w.st.record r := by
  unfold Work.finish State.evaluate
  dsimp only
  split <;> split <;> rfl

theorem held_record (s : State) (q r : Ref) (f : RefRecord → RefRecord) (hf : ∀ y, (f y).held = y.held) :
    ((s.onRecord q f).record r).held = (s.record r).held := by
  rw [record_onRecord]; split
  · rename_i e; subst e; exact hf _
  · rfl

theorem held_transition (w : Work) (q r : Ref) (x c) : ((w.transition q x c).st.record r).held = (w.st.record r).held :=
  by refine held_record _ _ _ _ ?_; intro; rfl

theorem held_unmark (w : Work) (a b r) : ((w.unmark a b).st.record r).held = (w.st.record r).held := by
  unfold Work.unmark; split
  · (refine held_record _ _ _ _ ?_; intro; rfl)
  · rfl

theorem held_dispute (w : Work) (a b r) : ((w.dispute a b).st.record r).held = (w.st.record r).held := by
  unfold Work.dispute; split
  · (refine held_record _ _ _ _ ?_; intro; rfl)
  · rfl

theorem held_clearPair (w : Work) (a b r) : ((w.clearPair a b).st.record r).held = (w.st.record r).held := by
  unfold Work.clearPair; rw [held_unmark, held_unmark]; rfl

theorem held_clearPairs (w : Work) (q r) : ((w.clearPairs q).st.record r).held = (w.st.record r).held := by
  unfold Work.clearPairs
  split
  · rfl
  · generalize phaseRefs.filter _ = xs
    induction xs generalizing w with
    | nil => rfl
    | cons x xs ih => rw [List.foldl_cons, ih, held_clearPair]

theorem held_forget (s : State) (q r) : ((s.forgetHistory q).record r).held = (s.record r).held := by
  unfold State.forgetHistory
  dsimp only
  split
  · exact held_record s _ r (fun y => { y with history := [] }) (fun _ => rfl)
  · (refine held_record _ _ _ _ ?_; intro; rfl)

theorem held_fault (w : Work) (q r c) : ((w.fault q c).st.record r).held = (w.st.record r).held := by
  unfold Work.fault
  dsimp only
  simp only [Work.on]
  rw [held_forget, held_clearPairs]
  refine (held_record _ _ _ _ ?_).trans (held_transition _ _ _ _ _); intro; rfl

theorem held_countBad (w : Work) (q r c) : ((w.countBad q c).st.record r).held = (w.st.record r).held := by
  unfold Work.countBad
  dsimp only
  split
  · split
    · rw [held_fault]; (refine held_record _ _ _ _ ?_; intro; rfl)
    · (refine held_record _ _ _ _ ?_; intro; rfl)
  · rfl

theorem held_countGood (w : Work) (q r) : ((w.countGood q).st.record r).held = (w.st.record r).held := by
  unfold Work.countGood
  dsimp only
  split
  · split
    · rw [held_transition]; (refine held_record _ _ _ _ ?_; intro; rfl)
    · (refine held_record _ _ _ _ ?_; intro; rfl)
  · rfl

theorem held_firstSample (w : Work) (q r) : ((w.firstSample q).st.record r).held = (w.st.record r).held := by
  unfold Work.firstSample
  split
  · exact held_transition _ _ _ _ _
  · rfl

theorem held_show (s : State) (a b r) : ((s.showPersistence a b).record r).held = (s.record r).held := by
  unfold State.showPersistence
  dsimp only
  refine (held_record _ _ _ _ ?_).trans (held_record _ _ _ _ ?_) <;> intro <;> split <;> rfl

theorem held_compareWith (w : Work) (t a x b r) : ((w.compareWith t a x b).st.record r).held = (w.st.record r).held := by
  unfold Work.compareWith
  split
  · rfl
  · split
    · dsimp only
      generalize hg : (if w.st.disagree x _ then PairEntry.disagreed else PairEntry.agreed) = upd
      split
      · split
        · rw [held_clearPair]; rfl
        · unfold Work.resolve
          split
          · rw [held_unmark, held_unmark, held_countBad]; exact held_show _ _ _ _
          · split
            · rw [held_unmark, held_dispute]; exact held_show _ _ _ _
            · split
              · rw [held_unmark, held_dispute]; exact held_show _ _ _ _
              · rw [held_dispute, held_dispute]; exact held_show _ _ _ _
      · rfl
    · rfl

theorem held_compareAll (w : Work) (t a x r) : ((w.compareAll t a x).st.record r).held = (w.st.record r).held := by
  unfold Work.compareAll
  generalize phaseRefs.filter _ = xs
  induction xs generalizing w with
  | nil => rfl
  | cons y xs ih => rw [List.foldl_cons, ih, held_compareWith]

theorem held_take (w : Work) (r : PhaseRef) (x : PhaseEstimate) :
    (((w.take (.phase r) (.phase x)).st.record (.phase r)).held).map (fun h => h.estimate) = some x := by
  have hh : ∀ (s : State) g, ((s.hold r x g).record (.phase r)).held.map (fun h => h.estimate) = some x := by
    intro s g; simp [State.hold, record_onRecord_same]
  unfold Work.take
  split
  · exact hh _ _
  · dsimp only
    unfold Work.takePhase
    dsimp only
    have hk : ∀ g : Bool, (((w.st.hold r x g).keepHistory r x.e).record (.phase r)).held.map (fun h => h.estimate) = some x := by
      intro g
      unfold State.keepHistory
      split
      · exact hh _ _
      · split
        · exact hh _ _
        · rw [record_onRecord_same]; exact hh _ _
    split
    · rw [held_countBad, held_firstSample]; exact hk _
    · split
      · rw [held_compareAll, held_countGood, held_firstSample]
        simp only [Work.on, State.keepEstimate, record_onRecord_same]; exact hk _
      · rw [held_countGood, held_firstSample]
        simp only [Work.on, State.keepEstimate, record_onRecord_same]; exact hk _

/-- The estimate that a delivered sample leaves held (R40, R46). -/
theorem held_sample (s : State) (r : PhaseRef) (x : PhaseEstimate) (h : s.stc.store.isLoading = false) :
    ((s.sample (.phase r) (.phase x)).record (.phase r)).held.map (fun h => h.estimate) = some x := by
  unfold State.sample
  rw [h]
  simp only [Bool.false_eq_true, if_false]
  rw [finish_record]
  exact held_take _ _ _

/-! ## The estimates a pulse input remembers (R25) -/

/-- The record of a pulse input is not INHIBITED, and it is FAULTED or its input's last two estimates are `l`: a sample inhibits no record,
and it empties the last two only as it faults the record (R25, R50). -/
def Remembers (p : PulseIn) (l : List (Int × Time)) (s : State) : Prop :=
  (s.record (.phase (.pulse p))).state ≠ .inhibited ∧
  ((s.record (.phase (.pulse p))).state = .faulted ∨ (s.rfe.pulses.get p).lastTwo = l)

section

variable {p : PulseIn} {l : List (Int × Time)}

theorem Remembers.onRecord {s : State} (r : Ref) (f : RefRecord → RefRecord) (hf : ∀ y, (f y).state = y.state) (h : Remembers p l s) :
    Remembers p l (s.onRecord r f) := by
  have hs : ((s.onRecord r f).record (.phase (.pulse p))).state = (s.record (.phase (.pulse p))).state := by
    rw [record_onRecord]
    split
    · rename_i e; subst e; exact hf _
    · rfl
  exact ⟨by rw [hs]; exact h.1, by rw [hs]; exact h.2⟩

theorem Remembers.transition {w : Work} (r : Ref) (x : RefState) (c : Cause) (hr : (w.st.record r).state ≠ .faulted)
    (hx : x ≠ .inhibited) (h : Remembers p l w.st) : Remembers p l (w.transition r x c).st := by
  refine ⟨?_, h.2.imp (fun h => ?_) id⟩
  · rw [record_transition]
    split
    · exact hx
    · exact h.1
  · rw [record_transition]
    split
    · rename_i e; subst e; exact absurd h hr
    · exact h

theorem Remembers.unmark {w : Work} (a b : PhaseRef) (h : Remembers p l w.st) : Remembers p l (w.unmark a b).st := by
  unfold Work.unmark
  split
  · exact Remembers.onRecord _ _ (fun _ => rfl) h
  · exact h

theorem Remembers.dispute {w : Work} (a b : PhaseRef) (h : Remembers p l w.st) : Remembers p l (w.dispute a b).st := by
  unfold Work.dispute
  split
  · exact Remembers.onRecord _ _ (fun _ => rfl) h
  · exact h

theorem Remembers.clearPair {w : Work} (a b : PhaseRef) (h : Remembers p l w.st) : Remembers p l (w.clearPair a b).st := by
  unfold Work.clearPair
  exact .unmark _ _ (.unmark _ _ h)

theorem Remembers.clearPairs {w : Work} (r : Ref) (h : Remembers p l w.st) : Remembers p l (w.clearPairs r).st := by
  unfold Work.clearPairs
  split
  · exact h
  · generalize phaseRefs.filter _ = xs
    induction xs generalizing w with
    | nil => exact h
    | cons x xs ih => rw [List.foldl_cons]; exact ih (.clearPair _ _ h)

/-- Only a record's own fault empties the estimates of its input (R25, R50). -/
theorem Remembers.fault {w : Work} (r : Ref) (c : Cause) (hr : (w.st.record r).state ≠ .faulted) (h : Remembers p l w.st) :
    Remembers p l (w.fault r c).st := by
  by_cases e : r = .phase (.pulse p)
  · subst e
    have := congrArg RefRecord.state (fault_record w (.phase (.pulse p)) c)
    have hf : ((w.fault (.phase (.pulse p)) c).st.record (.phase (.pulse p))).state = .faulted := this
    exact ⟨by rw [hf]; decide, .inl hf⟩
  · unfold Work.fault
    dsimp only
    generalize hg : Work.on (w.transition r .faulted c) _ = w1
    have h1 : Remembers p l w1.st := by
      rw [← hg]
      exact Remembers.onRecord _ _ (fun _ => rfl) (.transition r .faulted c hr (by decide) h)
    have h2 : Remembers p l ((w1.clearPairs r).st.onRecord r (fun y => { y with history := [] })) :=
      Remembers.onRecord _ _ (fun _ => rfl) (.clearPairs _ h1)
    simp only [Work.on]
    unfold State.forgetHistory
    dsimp only
    split
    · rename_i q
      have hq : p ≠ q := fun x => e (by rw [x])
      refine ⟨h2.1, h2.2.imp id (fun h2 => ?_)⟩
      simp only [State.onPulse, perPulse_get_set, hq, if_false]
      exact h2
    · exact h2

theorem counts_not_faulted {x : RefState} (h : x.counts = true) : x ≠ .faulted := by
  rintro rfl; cases h

theorem Remembers.countBad {w : Work} (r : Ref) (c : Cause) (h : Remembers p l w.st) : Remembers p l (w.countBad r c).st := by
  unfold Work.countBad
  dsimp only
  split
  · rename_i hc
    have h1 : Remembers p l (w.st.onRecord r (fun y => { y with goodRun := 0, faultCount := y.faultCount + 1 })) :=
      Remembers.onRecord _ _ (fun _ => rfl) h
    split
    · refine .fault r c ?_ h1
      simp only [Work.on, record_onRecord_same]
      exact counts_not_faulted hc
    · exact h1
  · exact h

theorem Remembers.countGood {w : Work} (r : Ref) (h : Remembers p l w.st) : Remembers p l (w.countGood r).st := by
  unfold Work.countGood
  dsimp only
  split
  · rename_i hc
    have h1 : Remembers p l (w.st.onRecord r (fun y => { y with faultCount := 0, goodRun := satSucc 65535 y.goodRun })) :=
      Remembers.onRecord _ _ (fun _ => rfl) h
    split
    · refine .transition r _ _ ?_ (by decide) h1
      simp only [Work.on, record_onRecord_same]
      exact counts_not_faulted hc
    · exact h1
  · exact h

theorem Remembers.firstSample {w : Work} (r : Ref) (h : Remembers p l w.st) : Remembers p l (w.firstSample r).st := by
  unfold Work.firstSample
  split
  · rename_i ha
    exact .transition r _ _ (by rw [ha]; decide) (by decide) h
  · exact h

theorem Remembers.showPersistence {s : State} (a b : PhaseRef) (h : Remembers p l s) : Remembers p l (s.showPersistence a b) := by
  unfold State.showPersistence
  dsimp only
  exact Remembers.onRecord _ _ (fun _ => by split <;> rfl) (Remembers.onRecord _ _ (fun _ => by split <;> rfl) h)

theorem Remembers.resolve {w : Work} (t : Sec) (a b : PhaseRef) (ea eb : Int) (h : Remembers p l w.st) :
    Remembers p l (w.resolve t a b ea eb).st := by
  unfold Work.resolve
  split
  · exact .unmark _ _ (.unmark _ _ (.countBad _ _ h))
  · split
    · exact .unmark _ _ (.dispute _ _ h)
    · split
      · exact .unmark _ _ (.dispute _ _ h)
      · exact .dispute _ _ (.dispute _ _ h)

theorem Remembers.compareWith {w : Work} (t : Sec) (a : PhaseRef) (ea : Int) (b : PhaseRef) (h : Remembers p l w.st) :
    Remembers p l (w.compareWith t a ea b).st := by
  unfold Work.compareWith
  split
  · exact h
  · split
    · dsimp only
      generalize hg : w.on _ = w1
      have h1 : Remembers p l w1.st := by rw [← hg]; exact h
      split
      · split
        · exact .clearPair _ _ h1
        · exact .resolve _ _ _ _ _ (Remembers.showPersistence _ _ h1)
      · exact h1
    · exact h

theorem Remembers.compareAll {w : Work} (t : Sec) (a : PhaseRef) (ea : Int) (h : Remembers p l w.st) :
    Remembers p l (w.compareAll t a ea).st := by
  unfold Work.compareAll
  generalize phaseRefs.filter _ = xs
  induction xs generalizing w with
  | nil => exact h
  | cons x xs ih => rw [List.foldl_cons]; exact ih (.compareWith _ _ _ _ h)

theorem Remembers.hold {s : State} (r : PhaseRef) (x : PhaseEstimate) (g : Bool) (h : Remembers p l s) : Remembers p l (s.hold r x g) :=
  Remembers.onRecord _ _ (fun _ => rfl) h

theorem Remembers.keepHistory {s : State} (r : PhaseRef) (e : Int) (h : Remembers p l s) : Remembers p l (s.keepHistory r e) := by
  unfold State.keepHistory
  split
  · exact h
  · split
    · exact h
    · exact Remembers.onRecord _ _ (fun _ => rfl) h

/-- A phase estimate taken. -/
theorem Remembers.take {w : Work} (r : PhaseRef) (x : PhaseEstimate) (h : Remembers p l w.st) :
    Remembers p l (w.take (.phase r) (.phase x)).st := by
  unfold Work.take
  split
  · exact .hold _ _ _ h
  · dsimp only
    unfold Work.takePhase
    dsimp only
    generalize hg : w.on _ = w1
    have h1 : Remembers p l w1.st := by rw [← hg]; exact Remembers.keepHistory _ _ (.hold _ _ _ h)
    clear hg
    split
    · exact .countBad _ _ (.firstSample _ h1)
    · have h2 : Remembers p l (w1.st.keepEstimate (.phase r) x.e x.time x.window) := Remembers.onRecord _ _ (fun _ => rfl) h1
      have h3 := Remembers.countGood (.phase r) (Remembers.firstSample (w := w1.on (fun s => s.keepEstimate (.phase r) x.e x.time x.window))
        (.phase r) h2)
      split
      · exact .compareAll _ _ _ h3
      · exact h3

theorem finish_pulses (w : Work) (t : Trigger) : (w.finish t).rfe.pulses = w.st.rfe.pulses := by
  unfold Work.finish State.evaluate
  dsimp only
  split <;> split <;> rfl

/-- A phase estimate delivered leaves the last two estimates of a pulse input, but where the input's record is FAULTED (R25). -/
theorem Remembers.sample {s : State} (r : PhaseRef) (x : PhaseEstimate) (h : Remembers p l s) :
    Remembers p l (s.sample (.phase r) (.phase x)) := by
  unfold State.sample
  split
  · exact h
  · have := Remembers.take (w := ⟨s, []⟩) r x h
    exact ⟨by rw [finish_record]; exact this.1, by rw [finish_record, finish_pulses]; exact this.2⟩

/-- A record that is FAULTED takes an estimate without effect on the last two of its input (R25, R46). -/
theorem sample_faulted (s : State) (r : PhaseRef) (x : PhaseEstimate) (h : (s.record (.phase r)).state = .faulted) :
    ((s.sample (.phase r) (.phase x)).record (.phase r)).state = .faulted ∧ (s.sample (.phase r) (.phase x)).rfe = s.rfe := by
  unfold State.sample
  split
  · exact ⟨h, rfl⟩
  · have : Work.take ⟨s, []⟩ (.phase r) (.phase x) = ⟨s.hold r x false, []⟩ := by
      unfold Work.take
      rw [if_pos (.inl h)]
      rfl
    rw [this]
    refine ⟨?_, ?_⟩
    · rw [finish_record]
      show ((s.onRecord (.phase r) _).record (.phase r)).state = _
      rw [record_onRecord_same]
      exact h
    · unfold Work.finish State.evaluate
      dsimp only
      split <;> split <;> rfl

end

/-! ## Reports in the order of their delays (R36) -/

/-- Reports in the order of their path delays. -/
abbrev Sorted (xs : List Report) : Prop := xs.Pairwise (fun a b => a.delay ≤ b.delay)

theorem insertReport_perm (x : Report) (xs : List Report) : (insertReport x xs).Perm (x :: xs) := by
  induction xs with
  | nil => exact .refl _
  | cons y ys ih =>
    unfold insertReport
    split
    · exact .refl _
    · exact (ih.cons y).trans (.swap x y ys)

theorem insertReport_sorted (x : Report) (xs : List Report) (h : Sorted xs) : Sorted (insertReport x xs) := by
  induction xs with
  | nil => simp [insertReport, Sorted]
  | cons y ys ih =>
    unfold insertReport
    have h' := List.pairwise_cons.1 h
    split
    · rename_i hlt
      refine List.pairwise_cons.2 ⟨fun b hb => ?_, h⟩
      rcases List.mem_cons.1 hb with rfl | hb
      · omega
      · have := h'.1 b hb; omega
    · rename_i hge
      refine List.pairwise_cons.2 ⟨fun b hb => ?_, ih h'.2⟩
      rcases List.mem_cons.1 ((insertReport_perm x ys).mem_iff.1 hb) with rfl | hb
      · omega
      · exact h'.1 b hb

theorem insertReport_filter (x : Report) (xs : List Report) (d : Nat) (h : Sorted xs) :
    (insertReport x xs).filter (fun y => y.delay == d) = (xs ++ [x]).filter (fun y => y.delay == d) := by
  induction xs with
  | nil => rfl
  | cons y ys ih =>
    unfold insertReport
    have h' := List.pairwise_cons.1 h
    split
    · rename_i hlt
      -- x before all, no equal delay after
      by_cases hx : x.delay = d
      · have hn : (y :: ys).filter (fun y => y.delay == d) = [] := by
          rw [List.filter_eq_nil_iff]
          intro a ha
          rcases List.mem_cons.1 ha with rfl | ha
          · simp; omega
          · have := h'.1 a ha; simp; omega
        rw [List.filter_append, hn]
        simp only [List.filter_cons, hx, beq_self_eq_true, if_true]
        simp only [List.filter_cons] at hn
        rw [hn]; simp
      · rw [List.filter_append]
        simp [List.filter_cons, hx]
    · simp only [List.filter_cons, List.cons_append]
      split
      · rw [ih h'.2]
      · exact ih h'.2

theorem byDelay_append (xs : List Report) (x : Report) : byDelay (xs ++ [x]) = insertReport x (byDelay xs) := by
  unfold byDelay; rw [List.foldl_append]; rfl

/-- The reports in the order of their delays, and of equal delays in the order they had. -/
theorem byDelay_spec (xs : List Report) : (byDelay xs).Perm xs ∧ Sorted (byDelay xs) ∧
    ∀ d : Nat, (byDelay xs).filter (fun y => y.delay == d) = xs.filter (fun y => y.delay == d) := by
  induction xs using List.reverseRecOn with
  | nil => exact ⟨.refl _, .nil, fun _ => rfl⟩
  | append_singleton xs x ih =>
    rw [byDelay_append]
    refine ⟨?_, insertReport_sorted _ _ ih.2.1, fun d => ?_⟩
    · exact (insertReport_perm _ _).trans ((ih.1.cons x).trans (List.perm_append_singleton x xs).symm)
    · rw [insertReport_filter _ _ _ ih.2.1, List.filter_append, List.filter_append, ih.2.2]

/-- The greatest of a list. -/
theorem foldl_max (xs : List Nat) (a : Nat) :
    (∀ y ∈ xs, y ≤ xs.foldl max a) ∧ a ≤ xs.foldl max a ∧ (xs.foldl max a = a ∨ xs.foldl max a ∈ xs) := by
  induction xs generalizing a with
  | nil => simp
  | cons x xs ih =>
    obtain ⟨h1, h2, h3⟩ := ih (max a x)
    rw [List.foldl_cons]
    refine ⟨fun y hy => ?_, by omega, ?_⟩
    · rcases List.mem_cons.1 hy with rfl | hy
      · omega
      · exact h1 y hy
    · rcases h3 with h3 | h3
      · rw [h3]
        rcases Nat.le_total a x with h | h
        · right; simp [h]
        · left; omega
      · right; exact List.mem_cons_of_mem _ h3

/-! ## Companion records (R18) -/

/-- Bytes before a start byte are passed over. -/
theorem receive_noise (noise : List Byte) (y : PulseInput) (h : y.receiving = []) (hn : 0xA5#8 ∉ noise) :
    noise.foldl PulseInput.receive y = y := by
  induction noise generalizing y with
  | nil => rfl
  | cons b bs ih =>
    rw [List.foldl_cons]
    have hb : b ≠ 0xA5#8 := fun e => hn (e ▸ List.mem_cons_self ..)
    have : y.receive b = y := by simp [PulseInput.receive, h, hb]
    rw [this]
    exact ih y h (fun hm => hn (List.mem_cons_of_mem _ hm))

theorem receive_more (bytes : List Byte) (y : PulseInput) (hne : y.receiving ≠ []) (hl : y.receiving.length + bytes.length < 12) :
    bytes.foldl PulseInput.receive y = { y with receiving := List.append y.receiving bytes } := by
  induction bytes generalizing y with
  | nil => simp
  | cons b bs ih =>
    rw [List.foldl_cons]
    simp only [List.length_cons] at hl
    have : y.receive b = { y with receiving := List.append y.receiving [b] } := by
      unfold PulseInput.receive
      have h1 : y.receiving.isEmpty = false := by cases h : y.receiving <;> simp_all
      simp only [h1, Bool.false_and]
      rw [if_neg (by simp), if_pos (by simp; omega)]
    rw [this, ih]
    · simp
    · simp
    · simp; omega

/-- A record begun and not ended is held. -/
theorem receive_piece (bytes : List Byte) (y : PulseInput) (h : y.receiving = []) (hh : bytes.head? = some 0xA5#8) (hl : bytes.length < 12) :
    bytes.foldl PulseInput.receive y = { y with receiving := bytes } := by
  cases bytes with
  | nil => cases hh
  | cons b bs =>
    simp only [List.head?_cons, Option.some.injEq] at hh
    subst hh
    have h0 : y.receive 0xA5#8 = { y with receiving := [0xA5#8] } := by simp [PulseInput.receive, h]
    rw [List.foldl_cons, h0, receive_more _ _ (by simp) (by simp at hl ⊢; omega)]
    simp

/-- Twelve bytes from a start byte on are a record. -/
theorem receive_whole (bytes : List Byte) (y : PulseInput) (h : y.receiving = []) (hh : bytes.head? = some 0xA5#8) (hl : bytes.length = 12) :
    bytes.foldl PulseInput.receive y = y.takeRecord bytes := by
  obtain ⟨front, b, rfl⟩ : ∃ front b, bytes = front ++ [b] := by
    cases hb : bytes.reverse with
    | nil => simp at hb; subst hb; cases hl
    | cons b bs => exact ⟨bs.reverse, b, by rw [← List.reverse_reverse bytes, hb, List.reverse_cons]⟩
  have hf : front.length = 11 := by simpa using hl
  have hfh : front.head? = some 0xA5#8 := by cases front with
    | nil => cases hf
    | cons x xs => simpa using hh
  rw [List.foldl_append, receive_piece _ _ h hfh (by omega), List.foldl_cons, List.foldl_nil]
  unfold PulseInput.receive
  have h1 : front.isEmpty = false := by cases front <;> simp_all
  dsimp only
  rw [h1, if_neg (by simp), if_neg (by simp [hf])]
  unfold PulseInput.takeRecord
  have : List.append front [b] = front ++ [b] := rfl
  rw [this]
  split <;> rfl

theorem sums_body (body : List Byte) : (List.append body [integrityByte body]).foldl (· + ·) 0 = 0#8 := by
  change (body ++ _).foldl _ _ = _
  rw [List.foldl_append]; simp [integrityByte]

/-- The bytes that spell a companion record are read back. -/
theorem record_bytes (c : Companion) (h1 : c.sats < 64) (h2 : -32768 ≤ c.q) (h3 : c.q ≤ 32767) :
    companionOf (companionRecordBytes c) = some c ∧ (companionRecordBytes c).length = 12 ∧
    (companionRecordBytes c).head? = some 0xA5#8 := by
  have hb : ∃ l0 l1 l2 l3 l4 l5, beBytes 6 c.label.toNat = [l0, l1, l2, l3, l4, l5] := ⟨_, _, _, _, _, _, rfl⟩
  have hq : ∃ q0 q1, beBytes 2 (c.q % 65536).toNat = [q0, q1] := ⟨_, _, rfl⟩
  obtain ⟨l0, l1, l2, l3, l4, l5, hb⟩ := hb
  obtain ⟨q0, q1, hq⟩ := hq
  have hsum : sumsToZero (companionRecordBytes c) = true := by
    simp only [sumsToZero, companionRecordBytes, beq_iff_eq]
    exact sums_body _
  have hbytes : ∃ i, companionRecordBytes c = [0xA5#8, l0, l1, l2, l3, l4, l5, byte c.rx.code, byte c.sats, q0, q1, i] := by
    unfold companionRecordBytes
    dsimp only
    rw [hb, hq]
    exact ⟨_, rfl⟩
  obtain ⟨i, hi⟩ := hbytes
  refine ⟨?_, by rw [hi]; rfl, by rw [hi]; rfl⟩
  unfold companionOf
  rw [hsum, hi]
  have s1 : slice 7 1 [0xA5#8, l0, l1, l2, l3, l4, l5, byte c.rx.code, byte c.sats, q0, q1, i] = [byte c.rx.code] := rfl
  have s2 : slice 1 6 [0xA5#8, l0, l1, l2, l3, l4, l5, byte c.rx.code, byte c.sats, q0, q1, i] = secField c.label := by
    unfold secField; rw [hb]; rfl
  have s3 : slice 8 1 [0xA5#8, l0, l1, l2, l3, l4, l5, byte c.rx.code, byte c.sats, q0, q1, i] = [byte c.sats] := rfl
  have s4 : slice 9 2 [0xA5#8, l0, l1, l2, l3, l4, l5, byte c.rx.code, byte c.sats, q0, q1, i] = beBytes 2 (c.q % 65536).toNat := by
    rw [hq]; rfl
  simp only [s1, s2, s3, s4]
  have r : RxState.ofCode (natOf [byte c.rx.code]) = some c.rx := by cases c.rx <;> decide
  have e3 : natOf [byte c.sats] % 64 = c.sats := by
    simp [natOf, byte]; omega
  generalize natOf [byte c.sats] = z at *
  have e4 : intOf (beBytes 2 (c.q % 65536).toNat) = c.q := by
    unfold intOf
    simp only [natOf_beBytes, beBytes_length]
    have : (c.q % 65536).toNat % 256 ^ 2 = (c.q % 65536).toNat := Nat.mod_eq_of_lt (by norm_num; omega)
    rw [this]
    split <;> omega
  rw [r]
  simp [e3, e4]

/-! ## The expiry of a hold-off -/

/-- The end of an event that made a change raises the change count (R67). -/
theorem finish_changed (w : Work) (t : Trigger) (h : w.changes ≠ []) :
    (w.finish t).rqu.changeCount = (w.st.rqu.changeCount + 1) % 65536 := by
  have hc : (w.st.evaluate t).rqu.changeCount = w.st.rqu.changeCount := by
    unfold State.evaluate
    dsimp only
    split <;> rfl
  unfold Work.finish
  dsimp only
  rw [if_neg (by simp [h]), ← hc]
  rfl

theorem record_forget (s : State) (r q : Ref) : (s.forgetHistory r).record q = if q = r then { s.record r with history := [] } else s.record q := by
  have h := record_onRecord s r q (fun y => { y with history := [] })
  unfold State.forgetHistory
  cases r with
  | f1 => exact h
  | phase r => cases r <;> exact h

theorem record_stopTimerOf (s : State) (r q : Ref) : (s.stopTimerOf r).record q = s.record q := by
  unfold State.stopTimerOf; split <;> rfl

/-- The expiry of a hold-off changes the one record (R51). -/
theorem record_expire (w : Work) (r q : Ref) :
    (w.expire r).st.record q = if q = r then
      { w.st.record r with
        state := if w.st.inputPresent r then .observing else .absent
        trail := enterTrail w.st.tsu.seconds (if w.st.inputPresent r then .observing else .absent)
          (if w.st.inputPresent r then .holdOffEnd else .noInput) (w.st.record r).trail
        faultCount := 0, goodRun := 0, holdOff := 0
        history := if w.st.inputPresent r then (w.st.record r).history else [] } else w.st.record q := by
  unfold Work.expire
  split
  · simp only [if_true, Work.on, State.zeroCounts, record_onRecord, record_transition]
    split <;> simp_all
  · simp only [Work.on, State.zeroCounts, record_forget, record_stopTimerOf, record_onRecord, record_transition]
    split <;> simp_all

/-- What the expiry of a hold-off changes of the front end: a stale timer stopped, or a pulse input's estimates forgotten (R33, R45, R51). -/
theorem expire_rfe (s : State) (r : Ref) :
    (Work.expire ⟨s, []⟩ r).st.rfe =
      if s.inputPresent r then s.rfe else
      match r with
      | .f1 => s.rfe
      | .phase (.pulse p) => { s.rfe with pulses := s.rfe.pulses.set p { s.rfe.pulses.get p with lastTwo := [] } }
      | .phase (.packet k) => { s.rfe with windows := s.rfe.windows.set k { s.rfe.windows.get k with timer := none } } := by
  unfold Work.expire
  split
  · rfl
  · rename_i h
    cases r with
    | f1 => rfl
    | phase r => cases r <;> rfl

theorem expire_counts (s : State) (r : Ref) : (Work.expire ⟨s, []⟩ r).st.rqu.changeCount = s.rqu.changeCount ∧
    (Work.expire ⟨s, []⟩ r).changes ≠ [] := by
  unfold Work.expire
  split
  · exact ⟨rfl, by simp [Work.on, Work.transition, Work.mark]⟩
  · refine ⟨?_, by simp [Work.on, Work.transition, Work.mark]⟩
    cases r with
    | f1 => rfl
    | phase r => cases r <;> rfl

end Sys2Proof.Machine
end

