-- ==== Sys2Proof/Laws/Store.lean ====
section
/-! SUPPORT. What the images of the store's areas are good for: an image of a content of the right length is a valid area that reads back
its content, and the records of the MODEL area read back what they spell (R188, section 11.8). -/

set_option Elab.async false

namespace Sys2Proof.Machine

open Sys2Proof Sys2Proof.Safety

/-- An area's image is valid, and its content is the one it was made from. -/
theorem contentOf_image (a : Area) (content : List Byte) (h : content.length = a.contentLength) :
    a.contentOf (a.image content) = some content := by
  have hn : a.contentLength < 256 ^ 4 := by cases a <;> decide
  have hl : (uField 4 content.length).length = 4 := by simp [uField, beBytes_length]
  have hv : natOf (uField 4 content.length) = content.length := by
    rw [uField_of_lt 4 _ (by omega), natOf_beBytes, Nat.mod_eq_of_lt (by omega)]
  obtain ⟨x0, x1, x2, x3, hx⟩ : ∃ x0 x1 x2 x3, a.signature = [x0, x1, x2, x3] := by cases a <;> exact ⟨_, _, _, _, rfl⟩
  obtain ⟨y0, y1, y2, y3, hy⟩ : ∃ y0 y1 y2 y3, uField 4 content.length = [y0, y1, y2, y3] := by
    match uField 4 content.length, hl with
    | [y0, y1, y2, y3], _ => exact ⟨_, _, _, _, rfl⟩
  rw [hy] at hv
  unfold Area.contentOf Area.image
  simp only [hx, hy]
  have h8 : 8 + a.contentLength = content.length + 1 + 1 + 1 + 1 + 1 + 1 + 1 + 1 := by omega
  have hb : (List.append (List.flatten [[x0, x1, x2, x3], [y0, y1, y2, y3], content])
      (beBytes 2 (crc16 (List.flatten [[x0, x1, x2, x3], [y0, y1, y2, y3], content])).toNat)).take (8 + a.contentLength) =
      List.flatten [[x0, x1, x2, x3], [y0, y1, y2, y3], content] := by
    rw [h8]; simp
  rw [hb]
  simp [slice, h8, hv, h]

/-! ## Slices of fields in a row -/

theorem drop_skip (p rest : List Byte) (off : Nat) (h : p.length ≤ off) : (p ++ rest).drop off = rest.drop (off - p.length) := by
  rw [List.drop_append, List.drop_eq_nil_of_le h, List.nil_append]

/-- A slice past a field in a row is one of the fields that follow. -/
theorem slice_skip (p rest : List Byte) (off n : Nat) (h : p.length ≤ off) : slice off n (p ++ rest) = slice (off - p.length) n rest := by
  unfold slice
  rw [drop_skip _ _ _ h]

/-- A slice of the field in front. -/
theorem slice_here (p rest : List Byte) (n : Nat) (h : p.length = n) : slice 0 n (p ++ rest) = p := by
  unfold slice
  rw [List.drop_zero, ← h, List.take_left']
  rfl

theorem slice_all (p : List Byte) (n : Nat) (h : p.length = n) : slice 0 n p = p := by
  unfold slice
  rw [List.drop_zero, ← h, List.take_length]

/-- Records in a row, read. -/
theorem recordsOf_flatten (size : Nat) (rs : List (List Byte)) (rest : List Byte) (h : ∀ r ∈ rs, r.length = size) :
    recordsOf rs.length size (rs.flatten ++ rest) = rs := by
  induction rs with
  | nil => rfl
  | cons r rs ih =>
    have hr : r.length = size := h r (List.mem_cons_self ..)
    rw [List.length_cons, recordsOf, List.flatten_cons, List.append_assoc]
    rw [← hr, List.take_left', List.drop_left', hr, ih (fun x hx => h x (List.mem_cons_of_mem _ hx))] <;> rfl

theorem flatten_length (size : Nat) (rs : List (List Byte)) (h : ∀ r ∈ rs, r.length = size) : rs.flatten.length = rs.length * size := by
  induction rs with
  | nil => simp
  | cons r rs ih =>
    rw [List.flatten_cons, List.length_append, h r (List.mem_cons_self ..), ih (fun x hx => h x (List.mem_cons_of_mem _ hx)), List.length_cons]
    ring

theorem natOf_uField (n v : Nat) (h : v < 256 ^ n) : natOf (uField n v) = v := by
  rw [uField_of_lt n v h, natOf_beBytes, Nat.mod_eq_of_lt h]

theorem natOf_u1 (v : Nat) (h : v < 256) : natOf (u1 v) = v := natOf_uField 1 v (by simpa using h)

theorem onIn_onOff (b : Bool) : onIn (u1 (onOff b)) = b := by
  unfold onIn
  rw [natOf_u1 _ (by cases b <;> decide)]
  cases b <;> rfl

@[simp] theorem optInt_length (n : Nat) (x : Option Int) : (optInt n x).length = n := by cases x <;> simp [optInt]

@[simp] theorem optNat_length (n : Nat) (x : Option Nat) : (optNat n x).length = n := by cases x <;> simp [optNat]

/-! ## Bins, table entries, episodes -/

theorem bin_length (b : Bin) : b.bytes.length = 31 := by simp [Bin.bytes]

/-- A bin, written and read (R100, section 11.8). -/
theorem binOf_bytes (b : Bin) (h : BinStorable b) : binOf b.bytes = b := by
  obtain ⟨h1, h2, h3, h4, h5, h6, h7⟩ := h
  have e : b.bytes = secField b.start ++ (secField b.finish ++ (secField b.centre ++ (sField 4 b.mean ++ (sField 2 b.temp ++
      (uField 4 b.spread ++ (uField 2 b.samples ++ u1 (onOff b.disturbed))))))) := by simp [Bin.bytes]
  unfold binOf
  rw [e]
  simp only [slice_skip, slice_here, slice_all, secField_length, sField_length, uField_length, u1_length, Nat.reduceLeDiff, Nat.reduceSub, secOf_secField]
  rw [intOf_sField 4 b.mean (by norm_num; omega) (by norm_num; omega), intOf_sField 2 b.temp (by norm_num; omega) (by norm_num; omega),
    natOf_uField 4 b.spread (by norm_num; omega), onIn_onOff, clamp_of_mem _ _ _ h3 h4]
  unfold natIn
  rw [natOf_uField 2 b.samples (by norm_num; omega)]
  have : max 300 (min 900 b.samples) = b.samples := by omega
  rw [this]

/-- A table entry, written and read (R107, section 11.8). -/
theorem tableEntryOf_bytes (x : TableEntry) (h : x.v.natAbs ≤ 2000000 ∧ x.w ≤ 255) :
    tableEntryOf (List.append (sField 4 x.v) (u1 x.w)) = x := by
  have e : List.append (sField 4 x.v) (u1 x.w) = sField 4 x.v ++ u1 x.w := rfl
  unfold tableEntryOf
  rw [e]
  simp only [slice_skip, slice_here, slice_all, sField_length, u1_length, Nat.reduceSub, Nat.le_refl]
  rw [intOf_sField 4 x.v (by norm_num; omega) (by norm_num; omega), natOf_u1 _ (by omega), clampAbs_of_natAbs_le _ _ (by omega)]

theorem episode_length (e : Episode) : e.bytes.length = 27 := by simp [Episode.bytes]

theorem flags_six : ∀ a b c d e f : Bool, flagsByte [a, b, c, d, e, f] < 256 ∧
    (BitVec.ofNat 8 (flagsByte [a, b, c, d, e, f])).getLsbD 0 = a ∧ (BitVec.ofNat 8 (flagsByte [a, b, c, d, e, f])).getLsbD 1 = b ∧
    (BitVec.ofNat 8 (flagsByte [a, b, c, d, e, f])).getLsbD 2 = c ∧ (BitVec.ofNat 8 (flagsByte [a, b, c, d, e, f])).getLsbD 4 = e ∧
    (BitVec.ofNat 8 (flagsByte [a, b, c, d, e, f])).getLsbD 5 = f := by decide

/-- An episode record, written and read (R138, R198). -/
theorem episodeOf_bytes (e : Episode) (h : EpisodeStorable e) : episodeOf e.bytes = e := by
  obtain ⟨number, start, traceable, mode, cause, cleared, duration, bound, exit, e1, before, after⟩ := e
  obtain ⟨h1, h2, h3, h4, h5, h6, h7, h8, h9, h10⟩ := h
  dsimp only at *
  obtain ⟨d, rfl⟩ := Option.isSome_iff_exists.1 h3
  obtain ⟨bd, rfl⟩ := Option.isSome_iff_exists.1 h4
  have h5 := h5 d rfl
  have h6 := h6 bd rfl
  have e : Episode.bytes ⟨number, start, traceable, mode, cause, cleared, some d, some bd, exit, e1, before, after⟩ =
      uField 2 number ++ (secField start ++ (u1 (flagsByte [traceable, cleared, mode.isAssisted, exit.isSome, e1.isSome, after.isSome]) ++
        (u1 cause.code ++ (u1 (exitCode exit) ++ (uField 4 d ++ (uField 4 bd ++ (optInt 6 e1 ++ (u1 before ++ optNat 1 after)))))))) := by
    simp [Episode.bytes, optNat]
  unfold episodeOf
  rw [e]
  simp only [slice_skip, slice_here, slice_all, secField_length, uField_length, u1_length, optInt_length, optNat_length,
    Nat.reduceLeDiff, Nat.reduceSub, Nat.le_refl, secOf_secField]
  obtain ⟨f0, f1, f2, f3, f4, f5⟩ := flags_six traceable cleared mode.isAssisted exit.isSome e1.isSome after.isSome
  rw [natOf_u1 _ f0, f1, f2, f3, f4, f5, natOf_u1 cause.code (by cases cause <;> decide), natOf_u1 (exitCode exit) (by cases exit with | none => decide | some x => cases x <;> decide)]
  unfold natIn
  rw [natOf_uField 2 number (by norm_num; omega), natOf_uField 4 d (by norm_num; omega), natOf_uField 4 bd (by norm_num; omega), natOf_u1 before (by omega)]
  have a1 : max 1 (min 65535 number) = number := by omega
  have a2 : max 0 (min 4000000000 bd) = bd := by omega
  have a3 : max 16 (min 64 before) = before := by omega
  have a4 : (if mode.isAssisted = true then HoldMode.assisted else .predicted) = mode := by cases mode <;> rfl
  have a5 : entryCauseOf cause.code = cause := by cases cause <;> rfl
  have a6 : exitCauseOf (exitCode exit) = exit := by cases exit with | none => rfl | some x => cases x <;> rfl
  have a7 : (if e1.isSome = true then some (intOf (optInt 6 e1)) else none) = e1 := by
    cases e1 with
    | none => rfl
    | some x =>
      have := h7 x rfl
      simp only [optInt, Option.isSome_some, if_true]
      rw [intOf_sField 6 x (by norm_num; omega) (by norm_num; omega)]
  have a8 : (if after.isSome = true then some (max 16 (min 64 (natOf (optNat 1 after)))) else none) = after := by
    cases after with
    | none => rfl
    | some x =>
      have := h10 x rfl
      simp only [optNat, Option.isSome_some, if_true]
      rw [natOf_uField 1 x (by norm_num; omega)]
      congr 1; omega
  rw [a1, a2, a3, a4, a5, a6, a7, a8]

end Sys2Proof.Machine
end

