-- ==== Sys2Proof/WellFormed.lean ====
section
/-! DEFINITION. Which commands are well formed: the bounds that the spec sets on what the outside world can supply. The meanings are total
on every command; a command that is not well formed is none that the part can meet. -/

namespace Sys2Proof

/-- A phase lies below the length of the longest epoch interval (R1, R8). -/
def wfPhase (t : Nat) : Bool := decide (t < 1499999999999)

/-- The order of a loop update names each of its four parts once (R19, R28, R43). -/
def wfOrder (order : List UpdatePart) : Bool :=
  order.length == 4 && [UpdatePart.sampleP1, .sampleP2, .sampleF1, .loop].all (fun p => order.contains p)

/-- Bytes that arrive on a companion line, up to the end of a record at most: one byte or more, and twelve at most from the first start byte
A5h on (R18, section 11.4; log entry 28). -/
def wfRecord (bytes : List Byte) : Bool := !bytes.isEmpty && decide ((bytes.dropWhile (fun b => b != 0xA5#8)).length ≤ 12)

/-- A well-formed command. -/
def Instr.wf : Instr → Bool
  | .hardwareReset _ _ => true
  | .resetRelease => true
  | .siteLoad _ => true
  | .modelLoad t _ => wfPhase t
  | .epoch => true
  | .autosave => true
  | .holdOffExpiry _ => true
  | .settlingExpiry => true
  | .loopUpdate order => wfOrder order
  | .slewTick _ => true
  | .pulseArrival _ t => wfPhase t
  | .companionRecord _ bytes => wfRecord bytes
  | .staleTimerExpiry _ => true
  | .pulseDue _ => true
  | .pulseEnd _ => true
  | .attentionPulseEnd _ => true
  | .sensorSequenceStart => true
  | .vctlSample => true
  | .sequenceComplete t _ => wfPhase t
  | .transactionStart _ => true
  | .frameReceived _ t _ => wfPhase t
  | .poll _ t => wfPhase t
  | .status _ t => wfPhase t
  | .identify _ t => wfPhase t
  | .portSet _ t _ _ _ => wfPhase t
  | .portReset _ t => wfPhase t
  | .offsetReport _ t _ => wfPhase t
  | .referenceGet _ t _ _ => wfPhase t
  | .historyGet _ t _ => wfPhase t
  | .tableGet _ t _ => wfPhase t
  | .healthGet _ t => wfPhase t
  | .modelClear _ t => wfPhase t
  | .episodeGet _ t _ _ => wfPhase t
  | .sensorGet _ t => wfPhase t
  | .channelSet _ t _ => wfPhase t
  | .channelGet _ t => wfPhase t
  | .siteGet _ t _ _ => wfPhase t
  | .siteSet _ t _ _ _ => wfPhase t
  | .siteFreeze _ t => wfPhase t
  | .siteSave _ t => wfPhase t
  | .modelSave _ t => wfPhase t
  | .saveEnd t _ => wfPhase t
  | .saveTimeout t _ => wfPhase t
  | .powerFailWarning => true
  | .f1Edge t => wfPhase t
  | .statusByteClockedOut _ => true

end Sys2Proof
end

