-- ==== Sys2Proof/Tests/Slice0.lean ====
section
/-! SUPPORT. Small tests of the model against the worked sequences and tables of spec/ (each test names its source), the smoke test of
well-formedness, and a witness for each obligation that has hypotheses: a concrete state and operands that meet all of them. -/

set_option Elab.async false

namespace Sys2Proof.Tests

open Sys2Proof Sys2Proof.Machine Sys2Proof.Safety

/-! ## Small states -/

/-- The part with loading ended. -/
def base : State := { State.reset with running := true, stc := { Stc.reset .powerOn with store := .idle } }

/-- The part with the time scale traceable at the count 1,700,000,000. -/
def aligned : State := { base with tsu := { base.tsu with seconds := 1700000000, traceable := true, cls := 1, bound := 20 } }

/-- What a command leaves. -/
def after (s : State) (c : Instr) : State :=
  match exec c s with
  | .next u => u
  | .fault _ => s
  | .refused _ => s

/-- Every command answers the next state that `after` names. -/
theorem exec_after (c : Instr) (s : State) : exec c s = .next (after s c) := by
  obtain ⟨u, h⟩ := exec_next c s
  simp [after, h]

/-- The first pulse input as a reference. -/
abbrev p1 : PhaseRef := .pulse .p1

/-- The order of a loop update in which the loop comes last. -/
def loopLast : List UpdatePart := [.sampleP1, .sampleP2, .sampleF1, .loop]

/-- An estimate. -/
def est (e : Int) : PhaseEstimate :=
  { e := e, time := ⟨1700000000, 0⟩, toSec := 1700000000, fromSec := 1700000000, coarse := false, degraded := false, before := [],
    window := none }

/-- A record that is QUALIFIED and holds a good estimate that no update has used. -/
def offering (x : PhaseEstimate) : RefRecord := { RefRecord.reset with state := .qualified, held := some ⟨x, true, true⟩ }

/-- A state with a reference selected that offers an estimate. -/
def selecting (s : State) (r : PhaseRef) (x : PhaseEstimate) : State :=
  { s with rqu := { s.rqu with records := s.rqu.records.set (.phase r) (offering x), selected := some r } }

/-- The engine in a state. -/
def inEngine (s : State) (e : Engine) : State := { s with dlp := { s.dlp with engine := e } }

/-- The results a command of a loop update leaves in the engine: P, I, f_out. -/
def terms (s : State) : Int × Int × Int := (s.dlp.prop, s.dlp.integral, s.dlp.fOut)

/-! ## Well-formed commands: one ill-formed term for each check -/

theorem test_wf_phase : Instr.wf (.f1Edge 1499999999998) = true ∧ Instr.wf (.f1Edge 1499999999999) = false := by decide

theorem test_wf_order :
    Instr.wf (.loopUpdate loopLast) = true ∧ Instr.wf (.loopUpdate [.sampleP1, .sampleP2, .sampleF1]) = false ∧
    Instr.wf (.loopUpdate [.sampleP1, .sampleP1, .sampleF1, .loop]) = false := by decide

/-- Other bytes and twelve from the start byte on; a piece of a record; no bytes; thirteen bytes from the start byte on. -/
theorem test_wf_record :
    Instr.wf (.companionRecord .p1 (0x00 :: 0xA5 :: List.replicate 11 0x00)) = true ∧
    Instr.wf (.companionRecord .p1 [0xA5, 0x00]) = true ∧ Instr.wf (.companionRecord .p1 []) = false ∧
    Instr.wf (.companionRecord .p1 (0xA5 :: List.replicate 12 0x00)) = false := by decide

/-- The table gives no row any bits: no word spells a command. -/
theorem test_no_words : decodeTableWord 8 0x01 = none := by decide

/-! ## Arithmetic, checks and steps -/

/-- Section 4.3.1: 12.5 rounds to 13; halves go away from zero. -/
theorem test_nearest : nearest 3200 256 = 13 ∧ nearest (-3200) 256 = -13 ∧ nearest (3158013) 256 = 12336 := by decide

/-- R196 by hand: FFh xor FFh leaves 0; FFh xor FEh leaves 1, which eight shifts take to the polynomial. -/
theorem test_crc8 : crc8 [] = 0xFF ∧ crc8 [0xFF] = 0x00 ∧ crc8 [0xFE] = 0x07 := by decide

/-- The published check value of this CRC-16 over the digits 1 to 9. -/
theorem test_crc16 : crc16 [0x31, 0x32, 0x33, 0x34, 0x35, 0x36, 0x37, 0x38, 0x39] = 0x29B1 := by decide +kernel

/-- The table of R7. -/
theorem test_step_split :
    (splitSeconds 500000000001, splitRemainder 500000000001) = (1, -499999999999) ∧
    (splitSeconds (-2750000000000), splitRemainder (-2750000000000)) = (-3, 250000000000) := by decide

/-- Section 1.8 step 2: the alignment of the count 312 to the label 1,700,000,000. -/
theorem test_alignment :
    let s := selecting { base with tsu := { base.tsu with seconds := 312 } } p1
      { est (-199999851250) with toSec := 1700000000, fromSec := 312 }
    let u := after s (.loopUpdate [.loop, .sampleP1, .sampleP2, .sampleF1])
    (u.tsu.seconds, u.tsu.remainder, u.tsu.traceable, u.tsu.cls, u.tsu.bound, u.tsu.phase) =
      (1700000000, some (-199999851250), true, 3, 20, 500000000000) := by decide +kernel

/-- Section 1.8 steps 3 and 4: the epoch that takes the remainder up. -/
theorem test_epoch_adjusted :
    let s := { aligned with tsu := { aligned.tsu with remainder := some (-199999851250) } }
    let u := after s .epoch
    (u.tsu.seconds, u.tsu.phase, u.tsu.interval, u.tsu.remainder) = (1700000001, 0, 1199999851250, none) := by decide +kernel

/-! ## Front end -/

/-- The payload of the newest frame of a port's queue. -/
def lastPayload (s : State) (k : Port) : List Byte := ((s.tp.get k).queue.getLast?.map (fun f => f.payload)).getD []

/-- The kind bytes of a port's queue, oldest first. -/
def kindsOf (s : State) (k : Port) : List Byte := (s.tp.get k).queue.map (fun f => f.kind)

/-- A phase at which the tests send requests. -/
abbrev noon : Nat := 400000000

/-- A companion record of the label 1,700,000,000 (6553F100h), FIX, 8 satellites, q = 0, with the integrity byte summed by hand. -/
def companionExample (last : Byte) : List Byte := [0xA5, 0x00, 0x00, 0x65, 0x53, 0xF1, 0x00, 0x01, 0x08, 0x00, 0x00, last]

theorem test_companion_taken :
    ((after base (.companionRecord .p1 (0x17 :: companionExample 0xA9))).rfe.pulses.get .p1).pending =
      some ⟨1700000000, .fix, 8, 0⟩ := by decide +kernel

theorem test_companion_bad_sum : after base (.companionRecord .p1 (companionExample 0xA8)) = base := by decide +kernel

/-- P1 QUALIFIED at the count 1,700,050,003, two unlabelled pulses behind it (section 2.1.7, intervals 4 and 6). -/
def unlabelled (pending : Option Companion) : State :=
  let s := aligned.onRecord (.phase p1) (fun y => { y with state := .qualified })
  let s := s.onPulse .p1 (fun y => { y with pending := pending, lastLabel := some 1700050002, unlabelledRun := 2 })
  { s with tsu := { s.tsu with seconds := 1700050003 } }

/-- Section 2.1.7 interval 4: the third unlabelled pulse gives the bad sample LABEL and keeps the last label. -/
theorem test_pulse_third_unlabelled :
    let u := after (unlabelled none) (.pulseArrival .p1 500)
    ((u.rfe.pulses.get .p1).unlabelledRun, (u.rfe.pulses.get .p1).lastLabel, (u.record (.phase p1)).faultCount) =
      (3, some 1700050002, 1) := by decide +kernel

/-- R23: x = 750 ps after the epoch, stamped down from 900 ps, with q = −1,250 ps. -/
theorem test_pulse_labelled :
    let u := after (unlabelled (some ⟨1700050003, .fix, 8, -1250⟩)) (.pulseArrival .p1 900)
    ((u.rfe.pulses.get .p1).unlabelledRun, (u.rfe.pulses.get .p1).lastLabel,
      (u.record (.phase p1)).lastEstimate.map (fun x => x.value)) = (0, some 1700050003, some (-2000)) := by decide +kernel

/-- R26: the 250 ps stamp of an edge. -/
theorem test_f1_edge :
    (after base (.f1Edge 1000130)).rfe.f1.gate = some { first := 1000000, latest := 1000000, carried := 0, cycles := 0 } := by
  decide +kernel

/-- T2 QUALIFIED, OC2 ACTIVE with D = 30 ns, and some reports in its window (section 2.4.2). -/
def windowed (xs : List Report) (timer : Nat) : State :=
  let s := aligned.onRecord (.phase (.packet .tp2)) (fun y => { y with state := .qualified })
  let s := s.onWindow .tp2 (fun w => { w with reports := xs, timer := some timer })
  s.onChannel .tp2 (fun c => { c with settings := { c.settings with delay := 30 }, state := .active, overBudget := false })

/-- A report of section 2.4.2. -/
def reportOf (sequence delay : Nat) (offset : Int) : Report :=
  { sequence := sequence, masterSec := 1700000000, masterNs := 0, offset := offset, delay := delay, grade := 1,
    accepted := ⟨1700000000, 0⟩ }

/-- The first fifteen reports of section 2.4.2. -/
def reports15 : List Report :=
  [reportOf 201 431250000 58300, reportOf 202 418900000 52100, reportOf 203 446000000 71400, reportOf 204 402100000 41000,
   reportOf 205 425700000 49800, reportOf 206 439300000 66200, reportOf 207 411600000 45500, reportOf 208 452800000 77900,
   reportOf 209 402350000 40200, reportOf 210 428000000 55600, reportOf 211 434450000 61000, reportOf 212 402500000 43100,
   reportOf 213 416200000 47300, reportOf 214 441900000 69700, reportOf 215 402800000 39900]

/-- A request's fields for a report of section 2.4.2. -/
def reportFields (sequence delay offset : Nat) : OffsetFields :=
  { sequence := BitVec.ofNat 16 sequence, masterSec := 1700000000, masterNs := 0, offset := BitVec.ofNat 40 offset,
    delay := BitVec.ofNat 40 delay, grade := 1, flags := 0 }

/-- Section 2.4.2: sequence 216 closes the window with e = 11,050 ps, n = 16, K = 4, and is answered OK with a count of 0. -/
theorem test_window_closes :
    let u := after (windowed reports15 3) (.offsetReport .tp2 noon (reportFields 216 402800000 47600))
    ((u.record (.phase (.packet .tp2))).lastEstimate.map (fun x => (x.value, x.window)), (u.rfe.windows.get .tp2).timer,
      lastPayload u .tp2) = (some (11050, some ⟨16, 4, 1⟩), some 8, [0, 0]) := by decide +kernel

/-- Section 2.4.2: the repeated sequence 207 is refused DUPLICATE with a count of 7, and the timer runs on. -/
theorem test_window_duplicate :
    let u := after (windowed (reports15.take 7) 3) (.offsetReport .tp2 noon (reportFields 207 411600000 45500))
    ((u.rfe.windows.get .tp2).timer, lastPayload u .tp2) = (some 3, [6, 7]) := by decide +kernel

/-- Section 2.4.2 note 6: three reports at an expiry are a THIN WINDOW, a bad sample. -/
theorem test_stale_expiry :
    let u := after (windowed (reports15.take 3) 0) (.staleTimerExpiry .tp2)
    ((u.rfe.windows.get .tp2).timer, (u.rfe.windows.get .tp2).reports, (u.record (.phase (.packet .tp2))).faultCount) =
      (some 8, [], 1) := by decide +kernel

/-! ## Qualifier -/

/-- P2 as section 3.4.1 has it after the epoch 1302 (counts from s0 = 0). -/
def flapping : State :=
  let trail : List TrailEntry :=
    [⟨.observing, .holdOffEnd, 1302, 1302, 1⟩, ⟨.faulted, .loss, 1002, 1002, 1⟩, ⟨.qualified, .goodRun, 940, 940, 1⟩,
     ⟨.observing, .firstSample, 880, 880, 1⟩]
  let s := aligned.onRecord (.phase (.pulse .p2)) (fun y => { y with state := .observing, faultCount := 2, trail := trail })
  { s with tsu := { s.tsu with seconds := 1312 } }

/-- Section 3.4.1: the fault at 1312 merges into the entry of 1002 and is held off for 600 s. -/
theorem test_hold_off_doubles :
    let y := (after flapping (.loopUpdate loopLast)).record (.phase (.pulse .p2))
    (y.state, y.holdOff, y.trail.head?, y.trail.length) =
      (.faulted, 600, some ⟨.faulted, .loss, 1002, 1312, 2⟩, 4) := by decide +kernel

/-- R51, R46: a LOSS taken in FAULTED marks the held estimate bad and leaves the rest of the record; in INHIBITED it changes nothing. -/
theorem test_sample_in_faulted :
    let s (x : RefState) : State := flapping.onRecord (.phase (.pulse .p2)) (fun y =>
      { y with state := x, held := some ⟨est 120, true, true⟩ })
    let taken (x : RefState) : State := (s x).sample (.phase (.pulse .p2)) (.bad .loss ⟨1312, 0⟩)
    (taken .faulted == (s .faulted).onRecord (.phase (.pulse .p2)) (fun y => { y with held := some ⟨est 120, false, true⟩ }),
      taken .inhibited == s .inhibited) = (true, true) := by decide +kernel

/-- Section 3.4.1: the hold-off of 1002 ends at 1302 in OBSERVING with a new entry. -/
theorem test_hold_off_ends :
    let s := flapping.onRecord (.phase (.pulse .p2)) (fun y =>
      { y with state := .faulted, holdOff := 0, trail := y.trail.drop 1 })
    let s := { s.onPulse .p2 (fun y => { y with prevSeen := true }) with tsu := { s.tsu with seconds := 1302 } }
    let y := (after s (.holdOffExpiry (.phase (.pulse .p2)))).record (.phase (.pulse .p2))
    (y.state, y.trail.length, y.trail.head?) = (.observing, 4, some ⟨.observing, .holdOffEnd, 1302, 1302, 1⟩) := by decide +kernel

/-- Section 3.5.1: P1 QUALIFIED and selected, T1 QUALIFIED near +4 µs, P2 OBSERVING. -/
def outOfStep (p2 : Option Int) (faults disagreements : Nat) (inDispute : Bool) : State :=
  let last (e : Int) : LastEstimate := ⟨e, ⟨1700000000, 0⟩, none⟩
  let s := aligned.onRecord (.phase p1) (fun y => { y with state := .qualified, lastEstimate := some (last 120) })
  let s := s.onRecord (.phase (.packet .tp1)) (fun y =>
    { y with state := .qualified, lastEstimate := some (last 4010000), faultCount := faults })
  let s := s.onRecord (.phase (.pulse .p2)) (fun y => { y with state := .observing, lastEstimate := p2.map last })
  let s := s.onPair p1 (.packet .tp1) (fun p => { p with disagreeRun := disagreements, inDispute := inDispute })
  { s with rqu := { s.rqu with selected := some p1 } }

/-- Section 3.5.1 row 3: the third disagreement marks T1, and P1 stays selected. -/
theorem test_dispute_marked :
    let u := (outOfStep none 0 2 false).sample (.phase p1) (.phase (est (-90)))
    ((u.record (.phase (.packet .tp1))).partner, (u.record (.phase p1)).partner, (u.pair p1 (.packet .tp1)).inDispute,
      u.rqu.selected) = (some p1, none, true, some p1) := by decide +kernel

/-- Section 3.5.1 row 6: outvoted a second time, T1 faults and the pair is cleared. -/
theorem test_dispute_resolved :
    let u := (outOfStep (some 300) 1 3 true).sample (.phase p1) (.phase (est (-40)))
    ((u.record (.phase (.packet .tp1))).state, (u.record (.phase (.packet .tp1))).faultCount,
      (u.pair p1 (.packet .tp1)).disagreeRun, (u.pair p1 (.packet .tp1)).inDispute) = (.faulted, 2, 0, false) := by decide +kernel

/-! ## Discipline loop -/

/-- Section 4.3.1, first case. -/
theorem test_locked_update :
    let s := selecting { inEngine aligned (.locked p1) with dlp := { aligned.dlp with engine := .locked p1, integral := 3158000 } } p1
      (est 3200)
    terms (after s (.loopUpdate loopLast)) = (25, 3158013, 12361) := by decide +kernel

/-- Section 4.3.1, second case: the increment withheld. -/
theorem test_increment_withheld :
    let s := selecting { aligned with dlp := { aligned.dlp with engine := .acquiring p1, integral := 102390000 } } p1 (est 2000000)
    terms (after s (.loopUpdate loopLast)) = (62500, 102390000, 400000) := by decide +kernel

/-- R84: settling ends. -/
theorem test_settling_ends :
    (after { aligned with dlp := { aligned.dlp with settling := some 0 } } .settlingExpiry).dlp.settling = none ∧
    (after { aligned with dlp := { aligned.dlp with settling := some 1 } } .settlingExpiry).dlp.settling = some 1 := by decide +kernel

/-! ## Learning and holdover -/

/-- The temperature table of section 6.10. -/
def tableExample : List TableEntry :=
  List.append (List.replicate 35 ⟨0, 0⟩)
    (List.append [⟨-88, 16⟩, ⟨-40, 16⟩, ⟨8, 16⟩, ⟨50, 16⟩] (List.replicate 25 ⟨0, 0⟩))

/-- The part LOCKED on P1, as section 6.10 has it at the update that finds no reference. -/
def threeHours : State :=
  let bin : Bin := ⟨1699998950, 1699999849, 1699999400, 197440, 560, 16, 900, false⟩
  { aligned with
    dlp := { aligned.dlp with engine := .locked p1, integral := 3160320 }
    lrn := { aligned.lrn with
      model := { Model.cleared with history := [bin], table := tableExample, slope := -480, slopeValid := true }
      openBin := some ⟨1699999850, 1699999999, 150, 0, 0, 0, 0, false⟩ }
    hop := { aligned.hop with score := 20, nextNumber := 42 }
    ssq := { aligned.ssq with results := { aligned.ssq.results with tosc := some 560 } } }

/-- Section 6.10 entry: f_out 12,340, U16 320,000, B 25, class 4, E_base 4. -/
theorem test_holdover_entry :
    let u := after threeHours (.loopUpdate loopLast)
    (u.dlp.engine, u.dlp.fOut, u.hop.uncertainty, u.tsu.bound, u.tsu.cls, u.hop.eBase) =
      (.holdover .predicted, 12340, 320000, 25, 4, 4) := by decide +kernel

/-- Section 6.10 update 7,200: f_out 12,253, u16 104, U16 1,040,000, B 82. -/
theorem test_holdover_predicted :
    let s := { threeHours with
      tsu := { aligned.tsu with seconds := 1700007200 }
      dlp := { aligned.dlp with engine := .holdover .predicted }
      ssq := { aligned.ssq with results := { aligned.ssq.results with tosc := some 504 } }
      hop := { threeHours.hop with
        isOpen := true, baseSource := .bin, f0 := 12340, baseTime := 1699999400, baseTemp := some 560, eBase := 4, time := 7199,
        uncertainty := 1039896, scoreInUse := 20, epochs := 1, bound := 82 } }
    let u := after s (.loopUpdate loopLast)
    (u.dlp.fOut, u.hop.terms.u16, u.hop.uncertainty, u.tsu.bound, u.hop.time) = (12253, 104, 1040000, 82, 7200) := by decide +kernel

/-- Section 6.10 note 7: the score after the episode is 19. -/
theorem test_score :
    ({ Hop.reset with time := 10799, uncertainty := 1689544, score := 20, scoreInUse := 20 } : Hop).scoreAfter (-25000) = 19 := by
  decide +kernel

/-- An open episode's record. -/
def openRecord : Episode := ⟨41, 1699990000, true, .predicted, .referenceLost, false, none, none, none, none, 16, none⟩

/-- The open bin of section 5.5.1, closed: centre 172,800, mean 198,432, temperature 600. -/
def binExample : Bin := (⟨172350, 173249, 900, 2857420800, 540000, 0, 0, false⟩ : OpenBin).close

/-- The model of section 5.5.1 with the anchor at 0: a disturbed bin, then 95 fit bins whose means less 51 ppt sum as
the section has it: the 16 oldest to 198,400 ppt, and the 15 newest with the new bin to 197,984 ppt. -/
def modelExample : Model :=
  let fit (i : Nat) : Bin :=
    ⟨BitVec.ofNat 48 (86850 + 900 * i), BitVec.ofNat 48 (87749 + 900 * i), BitVec.ofNat 48 (87300 + 900 * i),
     if i < 16 then 199216 else if i < 88 then 198832 else 198816, 600, 0, 900, false⟩
  { Model.cleared with
    history := ⟨0, 0, 0, 0, 600, 0, 900, true⟩ :: (List.range 95).map fit
    table := List.append (List.replicate 38 ⟨0, 16⟩) (⟨50, 9⟩ :: List.replicate 25 ⟨0, 16⟩)
    slope := -480, slopeValid := true, anchor := some ⟨0, 12400⟩ }

theorem test_bin_close :
    (binExample.centre, binExample.mean, binExample.temp, binExample.disturbed) = (172800, 198432, 600, false) := by decide +kernel

/-- Section 5.5.1 steps 1 and 2. -/
theorem test_bin_learned :
    let m := modelExample.keep false binExample
    (m.entry 38, m.history.length, m.slope, m.slopeValid) = (⟨51, 10⟩, 96, -485, true) := by decide +kernel

/-! ## Steering and sensors -/

/-- Section 7.4.1: the target of f_out = 12,253, and tick 11, which reaches it. -/
theorem test_target : (Sdc.reset.take .factory 12253).target = 540348 := by decide +kernel

theorem test_slew_tick :
    let s := { base with sdc := { Sdc.reset with target := 540348, output := 536576 } }
    (((after s (.slewTick 11)).sdc.output, (after s (.slewTick 11)).sdc.moved),
      (after { s with sdc := { s.sdc with output := 524288 } } (.slewTick 8)).sdc.output) = ((540348, true), 528384) := by
  decide +kernel

/-- A sequence in progress over a code latched at rest. -/
def converting (d : Sdc) (alarm : Alarm) : State :=
  { aligned with
    sdc := { d with target := 540348, output := 540348, latchedCode := 540348 }
    ssq := { aligned.ssq with inProgress := true, alarms := { aligned.ssq.alarms with tosc := alarm } } }

/-- Raw counts: TOSC and VCTL as given, IOVN 300 mA, the others inside their limits. -/
def counts (tosc vctl : Nat) : RawCounts := ⟨0, BitVec.ofNat 12 tosc, 1400, 3000, 300, BitVec.ofNat 12 vctl⟩

/-- Section 7.4.1: s3 reaches the fault count and holds; s11 reaches eight agreements and returns to NORMAL. -/
theorem test_readback :
    let u := after (converting { Sdc.reset with faultRun := 2 } .reset) (.sequenceComplete noon (counts 1584 2000))
    let v := after (converting { Sdc.reset with steering := .held, agreeRun := 7 } .reset) (.sequenceComplete noon (counts 1584 2110))
    ((u.sdc.steering, u.sdc.faultRun, u.lrn.verdict), (v.sdc.steering, v.sdc.agreeRun)) =
      ((.held, 0, .failed), (.normal, 0)) := by decide +kernel

/-- Section 7.6.1: sequence 6 raises the alarm, and sequence 10 clears it. -/
theorem test_tosc_alarm :
    let u := after (converting .reset ⟨.inRange, 2, .high, 0⟩) (.sequenceComplete noon (counts (1374 + 1024) 2110))
    let v := after (converting .reset ⟨.high, 0, .high, 2⟩) (.sequenceComplete noon (counts (1332 + 1024) 2110))
    (((u.ssq.alarms.get .tosc).state, (u.ssq.alarms.get .tosc).entryRun), (v.ssq.alarms.get .tosc).state) =
      ((.high, 0), .inRange) := by decide +kernel

/-- R145: the VCTL sample latches the output code and the moved flag; R148: a sequence starts. -/
theorem test_sequence_events :
    let s := { converting .reset .reset with sdc := { Sdc.reset with output := 536576, moved := true } }
    (((after s .vctlSample).sdc.latchedCode, (after s .vctlSample).sdc.latchedMoved),
      (after base .sensorSequenceStart).ssq.inProgress) = ((536576, true), true) := by decide +kernel

/-! ## Channels -/

/-- OC3 of section 8.4.1: ACTIVE, D = −250,000 ns. -/
def early : State :=
  aligned.onChannel .tp3 (fun c => { c with settings := { c.settings with delay := -250000 }, state := .active, overBudget := false })

/-- Section 8.4.1: the due phase 999,750,000,000 and the label one above the count. -/
theorem test_pulse_due :
    let u := after early (.pulseDue .tp3)
    (u.tsu.phase, (u.oc.get .tp3).lastLabel, (u.oc.get .tp3).closingServed, (u.oc.get .tp3).pulseEnd) =
      (999750000000, some 1700000001, true, some 999850000000) := by decide +kernel

/-- R163: the pulse ends W after it began; R159: the line returns to the resting level. -/
theorem test_pulse_end :
    let s := early.onChannel .tp3 (fun c => { c with pulseEnd := some 999850000000, closingServed := true })
    ((after s (.pulseEnd .tp3)).tsu.phase, ((after s (.pulseEnd .tp3)).oc.get .tp3).pulseEnd) = (999850000000, none) := by
  decide +kernel

/-- Section 8.5.1: in ACQUIRING, with the last estimate giving B = 1,125 or 1,126 against a limit of 1,500 and a set flag. -/
def recovering (e : Int) : State :=
  let s := aligned.onChannel .tp1 (fun c => { c with state := .quiet .overBudget, overBudget := true })
  { s with dlp := { s.dlp with engine := .acquiring p1, lastE := e },
           rqu := { s.rqu with records := s.rqu.records.set (.phase p1) { RefRecord.reset with state := .qualified },
                               selected := some p1 } }

theorem test_budget_recovers :
    let u := after (recovering 1125000) (.loopUpdate [.loop])
    (u.tsu.bound, (u.oc.get .tp1).overBudget, (u.oc.get .tp1).state) = (1125, false, .active) := by decide +kernel

theorem test_budget_waits :
    let u := after (recovering (-1126000)) (.loopUpdate [.loop])
    (u.tsu.bound, (u.oc.get .tp1).overBudget, (u.oc.get .tp1).state) = (1126, true, .quiet .overBudget) := by decide +kernel

/-- R158: a polarity byte of 2 is MALFORMED; a width of 50 ns is clamped to 100 ns. -/
theorem test_channel_set :
    lastPayload (after aligned (.channelSet .tp0 noon ⟨0, 50, 1500, 2, 0, 0, 0, 1⟩)) .tp0 = [2] ∧
    lastPayload (after aligned (.channelSet .tp0 noon ⟨0, 50, 1500, 0, 0, 0, 0, 1⟩)) .tp0 =
      [1, 0, 0, 0, 0, 0, 0, 0, 100, 0, 0, 5, 0xDC, 0, 0, 0, 0, 1, 0, 1] := by decide +kernel

/-- R197: the payload of a CHANNEL GET is 32 bytes, with the factory width of 100,000 ns (186A0h). -/
theorem test_channel_get :
    let x := lastPayload (after aligned (.channelGet .tp0 noon)) .tp0
    (x.length, slice 5 4 x) = (32, [0x00, 0x01, 0x86, 0xA0]) := by decide +kernel

/-! ## Ports -/

/-- A frame of a kind with no payload. -/
def frame (notice : Option NoticeKind) (kind : Byte) : Frame := ⟨notice, kind, []⟩

/-- TP2 with frames in its queue. -/
def queued (xs : List Frame) : State := aligned.onPort .tp2 (fun p => { p with queue := xs })

/-- Section 9.5.1: the queue R, TM, RC, HL, SC, EP, BG, R′. -/
def fullQueue : List Frame :=
  [frame none 0x0A, frame (some .timeMark) 0x81, frame (some .referenceChange) 0x83, frame (some .health) 0x85,
   frame (some .stateChange) 0x82, frame (some .episode) 0x87, frame (some .budget) 0x84, frame none 0x03]

/-- Section 9.5.1: a SETTINGS notice for every port removes the TIME MARK of the full queue and sets the dropped flag. -/
theorem test_full_queue :
    let u := after (queued fullQueue) (.siteFreeze .tp0 noon)
    (kindsOf u .tp2, (u.tp.get .tp2).dropped, kindsOf u .tp0) =
      ([0x0A, 0x83, 0x85, 0x82, 0x87, 0x84, 0x03, 0x86], true, [0x86, 0x12]) := by decide +kernel

/-- Section 9.5.1: a POLL collects the head and has no response. -/
theorem test_poll :
    kindsOf (after (queued [frame (some .timeMark) 0x81, frame (some .referenceChange) 0x83]) (.poll .tp2 noon)) .tp2 = [0x83] := by
  decide +kernel

/-- R171: two frames stay behind the head, the dropped flag is set and the port is SUSPECT: 2 + 8 + 16. -/
theorem test_transaction :
    let s := (queued (fullQueue.take 3)).onPort .tp2 (fun p => { p with dropped := true, state := .suspect })
    let u := after s (.transactionStart .tp2)
    ((u.tp.get .tp2).transmit.map (fun x => x.status), ((after u (.statusByteClockedOut .tp2)).tp.get .tp2).dropped) =
      (some 0x1A, false) := by decide +kernel

/-- R172, R173: a short frame counts, and at the default fault limit of 1 the port is SUSPECT; a good POLL makes it NORMAL again. -/
theorem test_frame_received :
    let s := after aligned (.transactionStart .tp2)
    let u := after s (.frameReceived .tp2 noon [0x01, 0x00])
    let v := after (after u (.transactionStart .tp2)) (.frameReceived .tp2 noon (Request.poll.frame))
    (((u.tp.get .tp2).state, (u.tp.get .tp2).badCount), (v.tp.get .tp2).state) = ((.suspect, 1), .normal) := by decide +kernel

/-- Section 11.5: the IDENTIFY record after a power-on with both areas invalid; the integrity byte is summed by hand. -/
theorem test_identify :
    lastPayload (after base (.identify .tp0 noon)) .tp0 =
      [0, 0x03, 0xA7, 0x12, 0x16, 1, 4, 7, 32, 96, 64, 16, 8, 1, 1, 0, 2, 0x46] := by decide +kernel

/-- Section 11.5: STATUS is 32 bytes, class 1 and B = 20 after the two times and the flags. -/
theorem test_status :
    let x := lastPayload (after aligned (.status .tp0 noon)) .tp0
    (x.length, slice 13 6 x) = (32, [0x01, 0x01, 0, 0, 0, 20]) := by decide +kernel

/-- R180: a fault limit of 3 becomes 4, CLAMPED; a mode of 2 is MALFORMED. -/
theorem test_port_set :
    lastPayload (after aligned (.portSet .tp0 noon 1 0 3)) .tp0 = [1, 1, 0, 4] ∧
    lastPayload (after aligned (.portSet .tp0 noon 2 0 3)) .tp0 = [2] := by decide +kernel

/-- R181: a PORT RESET empties the queue and answers OK. -/
theorem test_port_reset :
    kindsOf (after (queued fullQueue) (.portReset .tp2 noon)) .tp2 = [0x05] := by decide +kernel

/-- R179: the attention pulse of a response in PULSE mode lasts 1 µs. -/
theorem test_attention_pulse :
    let s := aligned.onPort .tp0 (fun p => { p with mode := .pulse })
    let u := after s (.healthGet .tp0 noon)
    ((u.tp.get .tp0).pulseEnd, ((after u (.attentionPulseEnd .tp0)).tp.get .tp0).pulseEnd) = (some 401000000, none) := by
  decide +kernel

/-- R68: there is no reference of index 7; section 0 is 37 bytes (R198). -/
theorem test_reference_get :
    lastPayload (after aligned (.referenceGet .tp0 noon 7 0)) .tp0 = [2] ∧
    (lastPayload (after aligned (.referenceGet .tp0 noon 0 0)) .tp0).length = 37 := by decide +kernel

/-- R110, R139: with no bin and no episode the answer is NOT FOUND with a count of 0. -/
theorem test_not_found :
    lastPayload (after aligned (.historyGet .tp0 noon 0)) .tp0 = [11, 0] ∧
    lastPayload (after aligned (.episodeGet .tp0 noon 0 0)) .tp0 = [11, 0] := by decide +kernel

/-- R111: a first entry of 64 is MALFORMED; from 60 four entries are returned. -/
theorem test_table_get :
    lastPayload (after aligned (.tableGet .tp0 noon 64)) .tp0 = [2] ∧
    (lastPayload (after aligned (.tableGet .tp0 noon 60)) .tp0).take 3 = [0, 60, 4] := by decide +kernel

/-- R197: HEALTH GET is 43 bytes and SENSOR GET 56. -/
theorem test_lengths :
    (lastPayload (after aligned (.healthGet .tp0 noon)) .tp0).length = 43 ∧
    (lastPayload (after aligned (.sensorGet .tp0 noon)) .tp0).length = 56 := by decide +kernel

/-- R112: a MODEL CLEAR is FROZEN while frozen, and otherwise sets the score to 16. -/
theorem test_model_clear :
    lastPayload (after { aligned with sst := { aligned.sst with frozen := true } } (.modelClear .tp0 noon)) .tp0 = [5] ∧
    (after threeHours (.modelClear .tp0 noon)).hop.score = 16 := by decide +kernel

/-! ## Settings and the store -/

/-- R185: the pull range (0Dh), value 400,000 (061A80h) in a payload of 41 bytes. -/
theorem test_site_get :
    let x := lastPayload (after base (.siteGet .tp1 noon 0x0D 0)) .tp1
    (x.length, x.take 9) = (41, [0, 0x0D, 0, 0, 0, 0, 0x06, 0x1A, 0x80]) := by decide +kernel

/-- R186: a pull range of 20 ppt is clamped to 10,000 ppt (2710h); an inhibit of 2 is MALFORMED. -/
theorem test_site_set :
    (after base (.siteSet .tp1 noon 0x0D 0 20)).site.val .pullRange = 10000 ∧
    lastPayload (after base (.siteSet .tp1 noon 0x0D 0 20)) .tp1 = [1, 0x0D, 0, 0, 0, 0, 0, 0x27, 0x10] ∧
    lastPayload (after base (.siteSet .tp1 noon 0x02 1 2)) .tp1 = [2] := by decide +kernel

/-- R187. -/
theorem test_site_freeze : (after base (.siteFreeze .tp1 noon)).sst.frozen = true := by decide +kernel

/-- A save in flight with two operations. -/
def saveExample (a : Area) (origin : SaveOrigin) : Save :=
  { area := a, origin := origin, image := [0x11, 0x22], time := ⟨1700000000, true⟩,
    ops := [.erase a.base, .program a.base [0x11, 0x22]] }

/-- The part with a save in flight. -/
def saving (a : Area) (origin : SaveOrigin) : State :=
  { aligned with stc := { aligned.stc with store := .saving (saveExample a origin), pendingEmergency := false } }

/-- R190: the requests that start a save while one is in flight are answered BUSY. -/
theorem test_save_busy :
    lastPayload (after (saving .model .auto) (.siteSave .tp0 noon)) .tp0 = [4] ∧
    lastPayload (after (saving .model .auto) (.modelSave .tp0 noon)) .tp0 = [4] := by decide +kernel

/-- R189, R190: a requested save that the device completes is answered OK with its save time; the area holds its image. -/
theorem test_save_end :
    let s := (saving .site (.requested .tp0)).onPort .tp0 (fun p => { p with reservation := true })
    let u := after s (.saveEnd noon 2)
    (u.flash.site, kindsOf u .tp0, lastPayload u .tp0) =
      (some [0x11, 0x22], [0x13], [0, 0x00, 0x00, 0x65, 0x53, 0xF1, 0x00, 1]) := by decide +kernel

/-- R189: a save that times out after its erase leaves the area invalid and owes an erase. -/
theorem test_save_timeout :
    let s := { saving .model .auto with flash := ⟨none, some [0x33]⟩ }
    let u := after s (.saveTimeout noon ⟨1, false⟩)
    (u.flash.model, u.stc.owedModel, u.stc.lastSave.map (fun x => x.ok)) = (none, true, some false) := by decide +kernel

/-- Section 10.5.1: the power warning during an autosave sets the pending flag; the autosave's end starts the emergency save. -/
theorem test_power_warning :
    let u := after (saving .model .auto) .powerFailWarning
    let v := after u (.saveEnd noon 2)
    ((u.stc.pendingEmergency, v.stc.pendingEmergency), v.stc.lastSave.map (fun x => (x.kind, x.ok)),
      (match v.stc.store with
        | .saving w => some w.origin
        | _ => none)) = ((true, false), some (.auto, true), some .emergency) := by decide +kernel

/-- R191: with the default interval of 6 h an autosave is due at a count of 21,600 epochs, and not at 21,599. -/
theorem test_autosave :
    let s (n : Nat) : State := { aligned with stc := { aligned.stc with autosaveCount := n } }
    ((after (s 21600) .autosave).stc.store != .idle, (after (s 21599) .autosave).stc.store == .idle) = (true, true) := by
  decide +kernel

/-- R193: a start with both areas invalid is on factory settings and cold, with the previous stop UNKNOWN. -/
theorem test_start_up :
    let s := after State.reset .resetRelease
    let u := after (after s (.siteLoad true)) (.modelLoad noon true)
    (s.running, u.stc.store == .idle, (u.sst.siteDefault, u.stc.previousStop, u.lrn.verdict)) =
      (true, true, (true, .unknown, .impaired)) := by decide +kernel

/-- R43, R67: the inhibited records of the start are one change, with no notice and no trail entry; without an inhibit there is none. -/
theorem test_inhibited_at_start :
    let s (x : SiteRecord) : State := { State.reset with
      running := true, stc := { State.reset.stc with store := .loadingModel }, sst := { State.reset.sst with record := x } }
    let u := after (s ((SiteRecord.factory.put (.inhibit .f1) 1).put (.inhibit (.phase p1)) 1)) (.modelLoad noon true)
    (u.rqu.changeCount, (u.record .f1).state, (u.record .f1).trail, kindsOf u .tp1 == kindsOf (after (s .factory) (.modelLoad noon true)) .tp1,
      (after (s .factory) (.modelLoad noon true)).rqu.changeCount) = (1, .inhibited, [], true, 0) := by decide +kernel

/-- R16, R189: a hardware reset between the erase and the program of a save leaves the area invalid. -/
theorem test_hardware_reset :
    let s := { saving .model .emergency with flash := ⟨some [0x44], some [0x33]⟩ }
    let u := after s (.hardwareReset .resetLine ⟨1, false⟩)
    ((u.flash.site, u.flash.model), u.running, u.stc.startCause, u.tsu == Tsu.reset) =
      ((some [0x44], none), false, .resetLine, true) := by decide +kernel

/-- R168: the epoch places each port's TIME MARK. -/
theorem test_epoch_marks : kindsOf (after aligned .epoch) .tp3 = [0x81] := by decide +kernel

/-- Section 11.8: the bytes of the operations on the memory port. -/
theorem test_memory_commands :
    (MemOp.commands (.erase 8192)).map MemCommand.bytes = [[0x06], [0x20, 0x00, 0x20, 0x00], [0x05]] ∧
    (MemOp.commands (.program 4096 [0xA5])).map MemCommand.bytes = [[0x06], [0x02, 0x00, 0x10, 0x00, 0xA5], [0x05]] := by decide

/-! ## Witnesses: for each obligation with hypotheses, a state and operands that meet all of them -/

theorem test_witness_HeldUntilReleased :
    State.reset.running = false ∧ isReset .epoch = false ∧ isRelease .epoch = false := by decide

/-- Its clauses: no save in flight; a save whose every operation was completed; one whose erase had begun, and one whose erase had not; and,
in each, the area that is not the save's own. -/
theorem test_witness_HardwareResetClears :
    let v := saveExample .model .auto
    let begun (x : SaveProgress) : List MemOp := v.ops.take (x.done + if x.begun then 1 else 0)
    (∀ v, aligned.stc.store ≠ .saving v) ∧ (saving .model .auto).stc.store = .saving v ∧ v.ops.length ≤ 2 ∧ ¬v.ops.length ≤ 1 ∧
    (4096 ∈ Area.model.sectors ∧ MemOp.erase 4096 ∈ begun ⟨0, true⟩ ∧ MemOp.erase 4096 ∈ begun ⟨1, false⟩) ∧
    begun ⟨0, false⟩ = [] ∧ (∀ addr ∈ Area.site.sectors, MemOp.erase addr ∉ begun ⟨2, true⟩) := by
  refine ⟨fun v h => ?_, by decide⟩
  cases h

/-- Reset released, the SITE area's read in progress. -/
def released : State := { State.reset with running := true }

/-- A valid SITE area. -/
def siteArea : List Byte := Area.image .site (siteContent .factory)

theorem test_witness_SiteLoadApplies :
    released.running = true ∧ released.stc.store = .loadingSite ∧
    (if false then released.flash.site.bind (Area.contentOf .site) else none) = none := by decide

/-- The clause of a valid area. -/
theorem test_witness_SiteLoadApplies_valid :
    Area.contentOf .site siteArea = some (siteContent .factory) := by
  have h : (siteContent .factory).length = Area.site.contentLength := by decide +kernel
  unfold siteArea
  rw [contentOf_image _ _ h]

theorem test_witness_ModelLoadRestores :
    ({ released with stc := { released.stc with store := .loadingModel } } : State).running = true ∧
    ({ released with stc := { released.stc with store := .loadingModel } } : State).stc.store = .loadingModel := by decide

/-- The clause of a valid area: a content of the MODEL area's length. -/
theorem test_witness_ModelLoadRestores_valid :
    Area.contentOf .model (Area.image .model (List.replicate 3761 0)) = some (List.replicate 3761 0) := by
  have h : ∀ b : Byte, (List.replicate 3761 b).length = Area.model.contentLength := fun b => List.length_replicate
  rw [contentOf_image _ _ (h 0)]

/-- The clause of an inhibited record; and a restored list, whose newest record had no exit cause, or had one. -/
theorem test_witness_ModelLoadRestores_inhibited :
    (Ref.f1 ∈ refs ∧ (SiteRecord.factory.put (.inhibit .f1) 1).flag (.inhibit .f1) = true) ∧
    (episodeOf (openRecord.bytes)).exitCause = none ∧
    (episodeOf ({ openRecord with exitCause := some .reacquired : Episode }.bytes)).exitCause = some .reacquired := by decide +kernel

/-- EpochAdvances, ClassAndBoundDerived, BudgetFollowsBound: reset released. -/
theorem test_witness_running : base.running = true ∧ aligned.running = true := by decide

/-- EpochPlacesTimeMark, with a TIME MARK in a full queue, and with one place left. -/
theorem test_witness_EpochPlacesTimeMark :
    let s := queued fullQueue
    let u := queued (fullQueue.take 1 |>.append (List.replicate 6 (frame none 0x03)))
    (s.running = true ∧ (s.oc.get .tp2).settings.timeMarks = true ∧ 0 < noticeCount (s.tp.get .tp2).queue .timeMark) ∧
    u.running = true ∧ (u.oc.get .tp2).settings.timeMarks = true ∧ (u.tp.get .tp2).places = 7 := by decide

/-- A state with a command waiting. -/
def waiting (s : State) (c : Instr) : State := { s with pending := [c] }

/-- A step of a state with one command waiting answers a next state. -/
theorem step_waiting (s : State) (c : Instr) : step (waiting s c) = .next (after { s with pending := [] } c) := exec_after _ _

theorem test_witness_TimeStaysRegular :
    TimeRegular (waiting aligned .epoch).tsu ∧ step (waiting aligned .epoch) = .next (after { aligned with pending := [] } .epoch) :=
  ⟨by decide, step_waiting _ _⟩

theorem test_witness_TraceableStays :
    isReset .epoch = false ∧ exec .epoch aligned = .next (after aligned .epoch) ∧ aligned.tsu.traceable = true :=
  ⟨by decide, exec_after _ _, by decide⟩

/-- The six cases of the engine at an update's end, each reached from a small state. -/
theorem test_witness_ClassAndBoundDerived :
    (after base (.loopUpdate loopLast)).dlp.engine = .freerun .unsteered ∧
    (after (selecting { aligned with dlp := { aligned.dlp with engine := .locked p1 } } p1 (est 3200)) (.loopUpdate loopLast)).dlp.engine =
      .locked p1 ∧
    (after (selecting { aligned with dlp := { aligned.dlp with engine := .locked (.packet .tp0) } } (.packet .tp0) (est 3200))
      (.loopUpdate loopLast)).dlp.engine = .locked (.packet .tp0) ∧
    (after (recovering 1125000) (.loopUpdate loopLast)).dlp.engine = .acquiring p1 ∧
    (after threeHours (.loopUpdate loopLast)).dlp.engine = .holdover .predicted := by decide +kernel

/-- The companion at both ends of q's range, a record whose sum is not 0, one that names no receiver state, and a piece of one. -/
theorem test_witness_CompanionRecordTaken :
    (base.running = true ∧ (63 : Nat) < 64 ∧ (-32768 : Int) ≤ -32768 ∧ (-32768 : Int) ≤ 32767 ∧ (32767 : Int) ≤ 32767 ∧
      0xA5#8 ∉ [0x00#8, 0xA4#8] ∧ (base.rfe.pulses.get .p1).receiving = []) ∧
    ((companionExample 0xA8).length = 12 ∧ (companionExample 0xA8).head? = some 0xA5#8 ∧
      (companionExample 0xA8).foldl (· + ·) 0 ≠ 0#8) ∧
    3 < (((companionExample 0xA9).set 7 0x04).getD 7 0).toNat ∧
    ((companionExample 0xA9).take 11).length < 12 ∧ ((companionExample 0xA9).take 11).head? = some 0xA5#8 := by decide +kernel

theorem test_witness_PulseMeasured :
    let s := { unlabelled (some ⟨1700050003, .fix, 8, -1250⟩) with
      tsu := { aligned.tsu with seconds := 1700050003 } }
    Timely s 900 ∧ s.stc.store.isLoading = false ∧ (s.record (.phase p1)).state ≠ .inhibited ∧ (s.rfe.pulses.get .p1).seen = false ∧
    (s.rfe.pulses.get .p1).pending = some ⟨1700050003, .fix, 8, -1250⟩ ∧
    (⟨1700050003, .fix, 8, -1250⟩ : Companion).rx ≠ .noFix ∧
    (s.tsu.traceable = true → (1700050003 : Sec) =
      if 2 * (900 / 250 * 250) ≤ s.tsu.interval then s.tsu.seconds else s.tsu.seconds + 1) := by decide

/-- The nearer epoch is the closing one, at the boundary of the two. -/
theorem test_witness_PulseMeasured_halfway :
    ((1700050004 : Sec) = if 2 * (500000000250 / 250 * 250) ≤ aligned.tsu.interval then (1700050003 : Sec) else 1700050003 + 1) ∧
    ((1700050003 : Sec) = if 2 * (500000000249 / 250 * 250) ≤ aligned.tsu.interval then (1700050003 : Sec) else 1700050003 + 1) := by
  decide

/-- The other clauses: INHIBITED; a second pulse; the third pulse without a companion; a companion in NO FIX; a companion whose label
disagrees with the reading epoch; and an inferred label, in the second pulse without a companion. -/
theorem test_witness_PulseMeasured_bad :
    let s := unlabelled none
    let y := s.rfe.pulses.get .p1
    (Timely s 900 ∧ ((s.onRecord (.phase p1) (fun z => { z with state := .inhibited })).record (.phase p1)).state = .inhibited) ∧
    ((s.record (.phase p1)).state ≠ .inhibited ∧ ((s.onPulse .p1 (fun z => { z with seen := true })).rfe.pulses.get .p1).seen = true) ∧
    (y.seen = false ∧ y.pending = none ∧ 2 ≤ y.unlabelledRun) ∧
    (((unlabelled (some ⟨1700050003, .noFix, 8, 0⟩)).rfe.pulses.get .p1).pending.map (fun c => c.rx)) = some .noFix ∧
    (s.tsu.traceable = true ∧ (1700050009 : Sec) ≠ s.tsu.seconds) ∧
    (let z := (s.onPulse .p1 (fun z => { z with unlabelledRun := 1 })).rfe.pulses.get .p1
     z.pending = none ∧ z.lastLabel = some 1700050002 ∧ z.unlabelledRun ≤ 1) := by decide

/-- PulseMeasured's estimates kept: measured while LOADING and in ABSENT, an estimate joins the last two (R23, R25); the first sample after
loading is good against them (R48), and a FAULTED record's input keeps what it has. -/
theorem test_witness_PulseMeasured_kept :
    let c : Companion := ⟨1700050003, .fix, 8, 0⟩
    let input : State → State := fun s => s.onPulse .p1 (fun y => { y with pending := some c, lastTwo := [(7, ⟨5, 0⟩), (1000000007, ⟨4, 0⟩)] })
    let u := after (input released) (.pulseArrival .p1 750)
    let v := after (input base) (.pulseArrival .p1 750)
    let f := input (base.onRecord (.phase p1) (fun y => { y with state := .faulted }))
    (Timely (input released) 750 ∧ (input released).stc.store.isLoading = true ∧ (u.record (.phase p1)).state = .absent ∧
      (u.rfe.pulses.get .p1).lastTwo.map (·.1) = [-750, 7]) ∧
    ((input base).tsu.traceable = false ∧ (v.record (.phase p1)).state = .observing ∧ (v.record (.phase p1)).goodRun = 1 ∧
      (v.rfe.pulses.get .p1).lastTwo.map (·.1) = [-750, 7]) ∧
    ((after f (.pulseArrival .p1 750)).rfe.pulses.get .p1).lastTwo = (f.rfe.pulses.get .p1).lastTwo := by decide +kernel

/-- F1EdgeStamped: both ends of an interval. -/
theorem test_witness_Timely : Timely aligned 0 ∧ Timely aligned 999999999999 := by decide

/-- A gate in progress with a number of whole cycles between its first edge and its last, of a time. -/
def gated (cycles time : Nat) : State :=
  { aligned with rfe := { aligned.rfe with
      f1 := { aligned.rfe.f1 with gate := some { first := 1000, latest := 1000 + time, carried := 0, cycles := cycles } } } }

/-- F1EdgeStamped's closes: no edge; one edge; an offset of 10,000,000 ppt, the greatest in range, at 10 MHz, and one beyond it; and F1
nominal of 10 MHz from reset. -/
theorem test_witness_F1EdgeStamped :
    (aligned.rfe.f1.gate = none ∧ aligned.site.val .f1Nominal = 0) ∧
    ((gated 0 0).rfe.f1.gate.map (fun g => g.cycles)) = some 0 ∧
    (gated 1000000 100001000000).closeGate.1 = some (.offset 10000000 (gated 1000000 100001000000).now) ∧
    (gated 1000000 100001000250).closeGate.1 = some (.bad .range (gated 1000000 100001000250).now) := by decide +kernel

/-- ReportAppended: a report that joins, one with the master changed, and an age of 16 s, the greatest taken. -/
theorem test_witness_ReportAppended :
    let s := windowed (reports15.take 14) 3
    let f := { reportFields 216 402800000 47600 with masterSec := 1699999984 }
    Ready s .tp2 noon ∧ s.stc.store.isLoading = false ∧ f.masterNs.toNat < 1000000000 ∧ 1 ≤ f.grade.toNat ∧ f.grade.toNat ≤ 4 ∧
    (s.tp.get .tp2).state = .normal ∧ (s.oc.get .tp2).state = .active ∧ (s.record (.phase (.packet .tp2))).state ≠ .inhibited ∧
    (s.tsu.traceable = true → secDiff s.tsu.seconds f.masterSec ≤ 16) ∧
    (f.flags.getLsbD 0 = true ∨ ∀ x ∈ (s.rfe.windows.get .tp2).reports, x.sequence ≠ f.sequence.toNat) ∧
    (s.rfe.windows.get .tp2).reports.length + 1 < s.site.nat (.windowThreshold .tp2) := by decide +kernel

theorem test_witness_ReportAppended_master :
    ({ reportFields 201 402800000 47600 with flags := 1 }.flags).getLsbD 0 = true ∧ (1 : Nat) < base.site.nat (.windowThreshold .tp2) := by
  decide +kernel

/-- ReportAppended: the report that brings the window to its threshold; and LowestDelaysTaken: a window that is not empty. -/
theorem test_witness_ReportAppended_closes :
    let s := windowed reports15 3
    let f := reportFields 216 402800000 47600
    (Ready s .tp2 noon ∧ (s.tp.get .tp2).state = .normal ∧ (s.oc.get .tp2).state = .active ∧
      ∀ x ∈ (s.rfe.windows.get .tp2).reports, x.sequence ≠ f.sequence.toNat) ∧
    (s.rfe.windows.get .tp2).reports.length + 1 = s.site.nat (.windowThreshold .tp2) ∧ reports15 ≠ [] := by decide +kernel

/-- ReportRefused: each refusal has a report that it applies to. -/
theorem test_witness_ReportRefused :
    let s := windowed (reports15.take 7) 3
    Ready s .tp2 noon ∧ s.stc.store.isLoading = false ∧
    (∃ f : OffsetFields, 1000000000 ≤ f.masterNs.toNat) ∧
    ((s.onPort .tp2 (fun p => { p with state := .suspect })).tp.get .tp2).state = .suspect ∧
    ((s.onChannel .tp2 (fun c => { c with state := .quiet .overBudget })).oc.get .tp2).state ≠ .active ∧
    ((s.onRecord (.phase (.packet .tp2)) (fun y => { y with state := .inhibited })).record (.phase (.packet .tp2))).state = .inhibited ∧
    (s.tsu.traceable = true ∧ 16 < secDiff s.tsu.seconds 1699999983) ∧
    ∃ x ∈ (s.rfe.windows.get .tp2).reports, x.sequence = 207 :=
  ⟨by decide, by decide, ⟨{ reportFields 1 1 1 with masterNs := 1000000000 }, by decide⟩, by decide, by decide, by decide, by decide,
    by decide⟩

/-- An expiry with four reports, with three, with one, and with none. -/
theorem test_witness_StaleExpiryRestarts :
    let s (n : Nat) : State := windowed (reports15.take n) 0
    let n (i : Nat) : Nat := ((s i).rfe.windows.get .tp2).reports.length
    ((s 4).running = true ∧ ((s 4).rfe.windows.get .tp2).timer = some 0) ∧ n 4 = 4 ∧
    ((s 4).rfe.windows.get .tp2).reports.getLast? = some (reportOf 204 402100000 41000) ∧ n 3 = 3 ∧ n 1 = 1 ∧
    ((s 0).rfe.windows.get .tp2).reports = [] := by decide

theorem test_witness_CountdownsExpire :
    let s := flapping.onRecord (.phase (.pulse .p2)) (fun y => { y with state := .faulted, holdOff := 0 })
    s.running = true ∧ (s.record (.phase (.pulse .p2))).state = .faulted ∧ (s.record (.phase (.pulse .p2))).holdOff = 0 := by decide

/-- Its input's presence (R51): a pulse in the interval before, none; a report exactly a stale period old, and one a second older, whose
window's timer stops. -/
theorem test_witness_CountdownsExpire_presence :
    let held (r : Ref) (s : State) : State := s.onRecord r (fun y => { y with state := .faulted })
    let p2 : Ref := .phase (.pulse .p2)
    let t2 : Ref := .phase (.packet .tp2)
    let s (age : Int) : State := held t2 ((windowed [] 3).onWindow .tp2 (fun w =>
      { w with lastAccepted := some ⟨BitVec.ofInt 48 (1700000000 - age), 0⟩ }))
    let left (r : Ref) (s : State) : RefState × Option Cause :=
      (((after s (.holdOffExpiry r)).record r).state, (((after s (.holdOffExpiry r)).record r).trail.head?).map (fun e => e.cause))
    base.site.nat (.stalePeriod .tp2) = 8 ∧ left p2 (held p2 (base.onPulse .p2 (fun y => { y with prevSeen := true }))) = (.observing, some .holdOffEnd) ∧
    left p2 (held p2 base) = (.absent, some .noInput) ∧ left t2 (s 8) = (.observing, some .holdOffEnd) ∧ left t2 (s 9) = (.absent, some .noInput) ∧
    (((after (s 8) (.holdOffExpiry t2)).rfe.windows.get .tp2).timer, ((after (s 9) (.holdOffExpiry t2)).rfe.windows.get .tp2).timer) =
      (some 3, none) := by decide +kernel

/-- Its clauses of counting: a record that counts none; a bad sample one short of the fault limit and at it; a good one that qualifies; and
trail entries that the transition renews, 3,600 s on, and not 3,601 s on. -/
theorem test_witness_CountdownsExpire_counting :
    let s := flapping
    let r : Ref := .phase (.pulse .p2)
    let young := s.onRecord r (fun y => { y with faultCount := 1, goodRun := 59 })
    ((aligned.record r).state = .absent ∧ (s.record r).state = .observing) ∧
    ((young.record r).faultCount + 1 < s.site.nat (.faultLimit r.kind) ∧ s.site.nat (.faultLimit r.kind) ≤ (s.record r).faultCount + 1) ∧
    s.site.nat (.qualifyLength r.kind) ≤ min 65535 ((young.record r).goodRun + 1) ∧
    ((s.record r).trail.find? (fun y => y.state == .faulted)).map (fun y => (y.cause, secDiff 4602 y.last, secDiff 4603 y.last)) =
      some (.loss, 3600, 3601) := by decide +kernel

/-- Its clauses of comparison: a pair out of dispute; the third agreement; the third disagreement, outvoted by P2 or by none, with the
selection on a member or on neither. -/
theorem test_witness_CountdownsExpire_comparison :
    let t : PhaseRef := .packet .tp1
    let s := outOfStep none 0 2 false
    let agreeing := s.onPair p1 t (fun p => { p with inDispute := true, agreeRun := 2 })
    (p1 ≠ t ∧ s.recent 1700000000 t = some 4010000 ∧ (s.record (.phase p1)).state = .qualified) ∧
    (s.rqu.pairs.find? (fun q => q.joins p1 t)).map (fun p => (p.disagreeRun, p.inDispute)) = some (2, false) ∧
    (agreeing.rqu.pairs.find? (fun q => q.joins p1 t)).map (fun p => (p.agreeRun, p.inDispute)) = some (2, true) ∧
    (s.outvoted 1700000000 p1 t (-90) 4010000 = none ∧ (outOfStep (some 300) 1 3 true).outvoted 1700000000 p1 t (-40) 4010000 = some t ∧
      s.rqu.selected = some p1 ∧ (flapping.rqu.selected ≠ some p1 ∧ flapping.rqu.selected ≠ some t)) := by
  decide +kernel

/-- A selected reference that is eligible, and a step. -/
theorem test_witness_SelectionStaysSound :
    SelectionSound (waiting (outOfStep none 0 0 false) .epoch) ∧
    step (waiting (outOfStep none 0 0 false) .epoch) = .next (after { outOfStep none 0 0 false with pending := [] } .epoch) :=
  ⟨by decide +kernel, step_waiting _ _⟩

theorem test_witness_EngineStaysTraceable :
    EngineTraceable (waiting (recovering 0) .epoch) ∧
    step (waiting (recovering 0) .epoch) = .next (after { recovering 0 with pending := [] } .epoch) :=
  ⟨by decide, step_waiting _ _⟩

/-- OutputWithinPullRange. -/
theorem test_witness_SettingsInRange : base.running = true ∧ SettingsInRange base := by decide +kernel

/-- LockedUpdateArithmetic, with an estimate of exactly four lock thresholds of 100 ns, in either order of the parts; in ACQUIRING; at a
switch to P1; and where a first estimate beyond the step limit meets steps that are not permitted. -/
theorem test_witness_LockedUpdateArithmetic :
    let s (e : Engine) : State := selecting (inEngine aligned e) p1 (est 400000)
    let far := selecting { inEngine aligned (.locked (.packet .tp0)) with
      sst := { aligned.sst with record := aligned.site.put .stepPermitted 0 } } p1 (est 2000000000)
    ((s (.locked p1)).running = true ∧ (s (.locked p1)).dlp.engine = .locked p1 ∧ Usable (atLoop loopLast (s (.locked p1))) p1 (est 400000) ∧
      Usable (atLoop [.loop] (s (.locked p1))) p1 (est 400000) ∧ (s (.locked p1)).dlp.firstEstimate = false) ∧
    (est 400000).e.natAbs ≤ 4 * (1000 * (s (.locked p1)).site.nat (.lockThreshold p1.kind)) ∧
    ((s (.acquiring p1)).dlp.engine = .acquiring p1 ∧ Usable (atLoop loopLast (s (.acquiring p1))) p1 (est 400000)) ∧
    ((s (.locked (.packet .tp0))).dlp.engine = .locked (.packet .tp0) ∧ p1 ≠ .packet .tp0 ∧
      Usable (atLoop loopLast (s (.locked (.packet .tp0)))) p1 (est 400000) ∧ ¬StepsOut (s (.locked (.packet .tp0))) (est 400000)) ∧
    (Usable (atLoop loopLast far) p1 (est 2000000000) ∧ ¬StepsOut far (est 2000000000)) := by decide +kernel

/-- No reference is selected: no estimate may be used. -/
theorem noneUsable_of_none {s : State} (h : s.rqu.selected = none) : NoneUsable s := fun r hr => by rw [h] at hr; cases hr

/-- The selected reference holds no estimate, or settling withholds it. -/
theorem noneUsable_of {s : State} (r : PhaseRef) (h : s.rqu.selected = some r)
    (h' : (s.record (.phase r)).held = none ∨ s.dlp.settling ≠ none) : NoneUsable s := by
  intro q hq x hx
  rw [h] at hq
  cases hq
  rcases h' with h' | h'
  · rw [h'] at hx; cases hx
  · exact .inr (.inr h')

/-- LOCKED, with an estimate that settling withholds. -/
def settlingDown : State := selecting { aligned with dlp := { aligned.dlp with engine := .locked p1, settling := some 2 } } p1 (est 0)

/-- TermsHeldWithoutEstimate: in LOCKED with an estimate withheld by settling, and in ACQUIRING without one. -/
theorem test_witness_TermsHeldWithoutEstimate :
    (settlingDown.running = true ∧ settlingDown.dlp.engine = .locked p1 ∧ (atLoop loopLast settlingDown).rqu.selected = some p1) ∧
    NoneUsable (atLoop loopLast settlingDown) ∧
    ((recovering 0).running = true ∧ (recovering 0).dlp.engine = .acquiring p1 ∧ (atLoop [.loop] (recovering 0)).rqu.selected = some p1) ∧
    NoneUsable (atLoop [.loop] (recovering 0)) :=
  ⟨by decide +kernel, noneUsable_of p1 (by decide +kernel) (.inr (by decide +kernel)), by decide +kernel,
    noneUsable_of p1 (by decide +kernel) (.inl (by decide +kernel))⟩

/-- Its clauses in FREERUN: F1 QUALIFIED; no bin; a bin. -/
theorem test_witness_TermsHeldWithoutEstimate_freerun :
    let f1 := base.onRecord .f1 (fun y => { y with state := .qualified })
    (base.running = true ∧ base.dlp.engine = .freerun .unsteered ∧ ((atLoop [.loop] f1).record .f1).state = .qualified ∧
      ((atLoop loopLast base).record .f1).state ≠ .qualified ∧ base.lrn.model.history = [] ∧ modelExample.history ≠ []) ∧
    NoneUsable (atLoop loopLast base) := ⟨by decide +kernel, noneUsable_of_none (by decide +kernel)⟩

/-- AlignmentTakesTime: an alignment, and an ORDINARY step of 1 ms and 1 ps at a switch of reference in LOCKED. -/
theorem test_witness_AlignmentTakesTime :
    let s := selecting { base with dlp := { base.dlp with fOut := 400000 } } p1 (est (-199999851250))
    let u := selecting (inEngine aligned (.locked (.packet .tp0))) p1 (est 1000000001)
    (s.running = true ∧ s.dlp.engine = .freerun .unsteered ∧ Usable (atLoop loopLast s) p1 (est (-199999851250)) ∧
      (s.dlp.fOut.natAbs : Int) ≤ s.site.val .pullRange) ∧
    u.running = true ∧ u.dlp.engine = .locked (.packet .tp0) ∧ Usable (atLoop loopLast u) p1 (est 1000000001) ∧ p1 ≠ .packet .tp0 ∧
    StepsOut u (est 1000000001) ∧ ¬StepsOut u (est 1000000000) := by decide +kernel

/-- An episode in its 600th second, at the bound its uncertainty gives, whose reference has come back with the estimate e1. -/
def regaining (time : Nat) (e1 : Int) : State :=
  selecting { aligned with
    dlp := { aligned.dlp with engine := .holdover .predicted }
    hop := { aligned.hop with isOpen := true, time := time, uncertainty := 320000, bound := 20, episodes := [openRecord] } } p1 (est e1)

/-- HoldoverEntered: the entry; and a later update, in PREDICTED, and in ASSISTED with F1 not available any more. -/
theorem test_witness_HoldoverEntered :
    let s (m : HoldMode) : State := { regaining 600 0 with rqu := aligned.rqu, dlp := { aligned.dlp with engine := .holdover m } }
    (threeHours.running = true ∧ threeHours.dlp.engine = .locked p1 ∧ (atLoop loopLast threeHours).rqu.selected = none) ∧
    ((s .predicted).running = true ∧ (s .predicted).dlp.engine = .holdover .predicted ∧ (s .assisted).dlp.engine = .holdover .assisted ∧
      ((atLoop loopLast (s .assisted)).record .f1).state ≠ .qualified ∧ (s .assisted).lrn.openBin = none) ∧
    NoneUsable (atLoop loopLast (s .predicted)) ∧ NoneUsable (atLoop loopLast (s .assisted)) :=
  ⟨by decide +kernel, by decide +kernel, noneUsable_of_none (by decide +kernel), noneUsable_of_none (by decide +kernel)⟩

/-- HoldoverEntered's clamp (R93): an integral beyond the default pull range of 400,000 ppt, at the entry, with a LIVE base, and later. -/
theorem test_witness_HoldoverEntered_clamped :
    let s : State := { threeHours with dlp := { threeHours.dlp with integral := 256 * 500000 }, lrn := aligned.lrn }
    let u := after s (.loopUpdate loopLast)
    s.site.val .pullRange = 400000 ∧ (u.dlp.integral, u.hop.baseSource, u.hop.f0) = (256 * 400000, .live, 400000) ∧
    (after { u with dlp := { u.dlp with integral := 256 * 500000 } } (.loopUpdate loopLast)).dlp.integral = 256 * 400000 := by
  decide +kernel

/-- HoldoverLeft and ScoreAfterEpisode: an estimate that is used, and one that is stepped. -/
theorem test_witness_HoldoverLeft :
    ((regaining 600 0).running = true ∧ (regaining 600 0).dlp.engine = .holdover .predicted ∧
      Usable (atLoop loopLast (regaining 600 0)) p1 (est 0) ∧ (regaining 600 0).hop.episodes = openRecord :: [] ∧
      ¬StepsOut (regaining 600 0) (est 0)) ∧
    Usable (atLoop loopLast (regaining 600 1000000001)) p1 (est 1000000001) ∧ StepsOut (regaining 600 1000000001) (est 1000000001) := by
  decide +kernel

/-- ScoreAfterEpisode's clauses: b = 320,000 × 16 / 256 = 20,000 ps; |e1| above it, below a quarter of it, and between them at both ends. -/
theorem test_witness_ScoreAfterEpisode :
    (600 ≤ (regaining 600 20001).hop.time ∧ (regaining 600 20001).hop.modelCleared = false ∧ ¬600 ≤ (regaining 599 0).hop.time) ∧
    (after (regaining 600 20001) (.loopUpdate loopLast)).hop.score = 24 ∧
    (after (regaining 600 20000) (.loopUpdate loopLast)).hop.score = 16 ∧
    (after (regaining 600 (-5000)) (.loopUpdate loopLast)).hop.score = 16 := by decide +kernel

theorem test_witness_EpisodeStaysSound :
    EpisodeSound (waiting (regaining 600 0) .epoch) ∧
    step (waiting (regaining 600 0) .epoch) = .next (after { regaining 600 0 with pending := [] } .epoch) :=
  ⟨by decide +kernel, step_waiting _ _⟩

/-- An episode that stays open over an update: its reference has sent no estimate. -/
def outlasting : State := { regaining 600 0 with rqu := aligned.rqu }

theorem test_witness_BoundNeverDecreases :
    EpisodeSound (waiting outlasting (.loopUpdate loopLast)) ∧
    step (waiting outlasting (.loopUpdate loopLast)) = .next (after { outlasting with pending := [] } (.loopUpdate loopLast)) ∧
    outlasting.hop.isOpen = true ∧ (after { outlasting with pending := [] } (.loopUpdate loopLast)).hop.isOpen = true :=
  ⟨by decide +kernel, step_waiting _ _, by decide, by decide +kernel⟩

theorem test_witness_ModelStaysSized :
    ModelSized (waiting base .epoch) ∧ step (waiting base .epoch) = .next (after { base with pending := [] } .epoch) :=
  ⟨by decide +kernel, step_waiting _ _⟩

/-- BinAppended's clauses: a disturbed bin and an undisturbed one; a model with an anchor and one without; 48 fit bins or more that span 12 h
with the groups apart; the two ends of the table; an entry that stands alone; and a search that finds an entry and one that finds none. -/
theorem test_witness_BinAppended :
    let fits := modelExample.history.filter (fun b => !b.disturbed && (modelExample.lookup false b.temp).value.isSome)
    let times (xs : List Bin) : List Int := xs.map (fun b => secDiff b.centre ((fits.head?.map (fun b => b.centre)).getD 0))
    let empty : Model := Model.cleared
    let one : Model := { Model.cleared with table := Model.cleared.table.set 30 ⟨7, 1⟩ }
    ((modelExample.history.getD 0 binExample).disturbed = true ∧ binExample.disturbed = false ∧ modelExample.anchor.isSome = true ∧
      empty.anchor = none) ∧
    (48 ≤ fits.length ∧ 0 < (times (fits.drop (fits.length - 16))).sum - (times (fits.take 16)).sum ∧
      43200 ≤ secDiff ((fits.getLast?.map (fun b => b.centre)).getD 0) ((fits.head?.map (fun b => b.centre)).getD 0)) ∧
    (modelExample.lookup false (-625)).value.isSome = true ∧ (one.lookup false 336).grade = 40 ∧
    (one.lookup false 210).value = some 7 ∧ (one.lookup false 463).value = some 7 ∧ (one.lookup false 464).value = some 7 ∧
    (one.lookup false 208).value = some 7 ∧ (one.lookup false 207).grade = 200 ∧ (empty.lookup false 336).value = none := by decide +kernel

/-- BinAppended's loop update (R98 to R100, R109): in LOCKED with no open bin, with one that the sample fills, and with one it does not;
left with 299 samples and with 300; and in LOCKED with F1 available, whose bias moves by d / 64. -/
theorem test_witness_BinAppended_update :
    let s (n : Nat) (bin : Bool) : State := { settlingDown with
      ssq := threeHours.ssq
      lrn := { settlingDown.lrn with
        warmup := .settled, openBin := if bin then some ⟨1699999850, 1699999999, n, 0, 560 * n, 0, 0, false⟩ else none } }
    let stay (n : Nat) (bin : Bool) : State := after (s n bin) (.loopUpdate loopLast)
    let leave (n : Nat) : State := after { s n true with rqu := base.rqu } (.loopUpdate loopLast)
    let f1 : State := (({ gated 1000000 100000006400 with dlp := settlingDown.dlp, rqu := settlingDown.rqu } : State).onRecord .f1
      (fun y => { y with state := .qualified }))
    ((stay 0 false).dlp.engine = .locked p1 ∧ (stay 0 false).lrn.openBin.map (fun o => (o.samples, o.sumT, o.disturbed)) = some (1, 560, false)) ∧
    ((stay 899 true).lrn.openBin, (stay 899 true).lrn.model.history.map (fun b => b.samples)) = (none, [900]) ∧
    ((stay 898 true).lrn.openBin.map (fun o => o.samples)) = some 899 ∧
    ((leave 299).dlp.engine.isLocked, (leave 299).lrn.openBin, (leave 299).lrn.model.history) = (false, none, []) ∧
    (leave 300).lrn.model.history.map (fun b => b.samples) = [300] ∧
    (gateOffset f1, (after f1 (.loopUpdate loopLast)).lrn.model.f1Bias) = (some 64000, 1000) := by decide +kernel

/-- SlewTickMoves: the tick of a phase that has just been reached, in NORMAL and in HELD. -/
theorem test_witness_SlewTickMoves :
    let s := { aligned with tsu := { aligned.tsu with phase := 500000000000 } }
    s.running = true ∧ s.tsu.phase ≤ (8 : Fin 16).val * (s.tsu.interval / 16) ∧ 0 < s.tsu.interval ∧ s.sdc.steering = .normal := by decide

theorem test_witness_CodesStayInRange :
    CodesInRange (waiting base .epoch).sdc ∧ step (waiting base .epoch) = .next (after { base with pending := [] } .epoch) :=
  ⟨by decide, step_waiting _ _⟩

/-- EpochAdvances at a minute mark: TOSC at the rate limit from the previous minute's, and one sixteenth beyond it, which trips (R97, R99); and
a pulse that outlasts the interval (R162). -/
theorem test_witness_EpochAdvances_minute :
    let s (t : Int) : State := { threeHours with
      tsu := { aligned.tsu with seconds := 1700000039, prevLabel := 1700000039 }
      lrn := { threeHours.lrn with minuteTemp := some t }
      oc := aligned.oc.set .tp0 { aligned.oc.get .tp0 with pulseEnd := some 1000000000001, closingServed := true } }
    let u (d : Int) : State := after (s (560 - d)) .epoch
    let n := threeHours.site.val .tempRateLimit
    ((u n).lrn.rateTrips, (u n).lrn.openBin.map (fun o => o.disturbed), (u n).lrn.lastTrip) = (0, some false, none) ∧
    ((u (n + 1)).lrn.rateTrips, (u (n + 1)).lrn.openBin.map (fun o => o.disturbed), (u (n + 1)).lrn.lastTrip) =
      (1, some true, some 1700000040) ∧
    (((u n).oc.get .tp0).pulseEnd, ((u n).oc.get .tp0).openingServed, (u n).stc.autosaveCount) = (some 1, true, 1) := by decide +kernel

theorem test_witness_SequenceStartAndLatch :
    (converting .reset .reset).running = true ∧ (converting .reset .reset).ssq.inProgress = true := by decide

theorem test_witness_SequenceCompleted :
    Timely (converting .reset .reset) noon ∧ (converting .reset .reset).ssq.inProgress = true := by decide

/-- Its clauses: a readback that agrees and one that does not, in NORMAL and in HELD; an oven current at the settle current and above it; a
result at a limit and one beyond it, in each alarm state. -/
theorem test_witness_SequenceCompleted_clauses :
    let s := converting .reset .reset
    let l := SiteLimits s.site .tosc
    ((resultsOf (counts 1584 2110)).vctl = some 540160 ∧ (resultsOf (counts 1584 2000)).vctl = some 512000 ∧
      (resultsOf (counts 1584 4095)).vctl = none ∧ s.sdc.latchedCode = 540348 ∧ s.site.val .readbackTolerance < 28348 ∧
      188 ≤ s.site.val .readbackTolerance) ∧
    ((resultsOf (counts 1584 2110)).iovn = some 300 ∧ s.site.val .settleCurrent = 400) ∧
    (¬l.low < l.low ∧ l.low - 1 < l.low ∧ l.high < l.high + 1 ∧ l.low + l.hysteresis ≤ l.high) := by decide +kernel

/-- Its open bin: an entry of the TOSC alarm, the third disagreement of the readback, and neither (R99). -/
theorem test_witness_SequenceCompleted_openBin :
    let s (d : Sdc) (a : Alarm) : State := { converting d a with lrn := { aligned.lrn with warmup := .settled, openBin := threeHours.lrn.openBin } }
    let left (s : State) (raw : RawCounts) : Option Bool := ((after s (.sequenceComplete noon raw)).lrn.openBin).map (fun o => o.disturbed)
    (left (s .reset ⟨.inRange, 2, .high, 0⟩) (counts (1374 + 1024) 2110), left (s { Sdc.reset with faultRun := 2 } .reset) (counts 1584 2000),
      left (s .reset .reset) (counts 1584 2110)) = (some true, some true, some false) := by decide +kernel

/-- PulseDueServed: D = 0 at the epoch, the greatest D, and D = −250,000 ns. -/
theorem test_witness_PulseDueServed :
    let c (d : Int) : ChannelSettings := { (aligned.oc.get .tp3).settings with delay := d }
    let s (d : Int) : State := aligned.onChannel .tp3 (fun x => { x with settings := c d, openingServed := false })
    (Timely (s 0) 0 ∧ 0 ≤ ((s 0).oc.get .tp3).settings.delay ∧ ((s 0).oc.get .tp3).openingServed = false ∧
      ((0 : Nat) : Int) = 1000 * ((s 0).oc.get .tp3).settings.delay) ∧
    (Timely (s 1000000) 1000000000 ∧ ((1000000000 : Nat) : Int) = 1000 * ((s 1000000).oc.get .tp3).settings.delay) ∧
    Timely early 999750000000 ∧ (early.oc.get .tp3).settings.delay < 0 ∧ (early.oc.get .tp3).closingServed = false ∧
    ((999750000000 : Nat) : Int) = early.tsu.interval + 1000 * (early.oc.get .tp3).settings.delay := by decide

/-- PulseEnds: a pulse that ends at its recorded end, and one that ends 100 ns before the due instant of the epoch after the next. -/
theorem test_witness_PulseEnds :
    let s (e : Nat) : State := early.onChannel .tp3 (fun c => { c with pulseEnd := some e, closingServed := true })
    let due : Int := (early.tsu.interval : Int) + 1000 * (-250000) + early.tsu.nextInterval
    (Timely (s 999850000000) 999850000000 ∧ ((s 999850000000).oc.get .tp3).pulseEnd = some 999850000000 ∧
      ((999850000000 : Nat) : Int) = max 0 (min ((999850000000 : Nat) : Int) (due - 100000))) ∧
    (let late := (s 999850000000).onChannel .tp3 (fun c => { c with closingServed := false })
     Timely late 999749900000 ∧ ((999749900000 : Nat) : Int) =
      max 0 (min ((999850000000 : Nat) : Int) ((early.tsu.interval : Int) + 1000 * (-250000) - 100000))) := by decide

theorem test_witness_ChannelSetApplied :
    Ready aligned .tp0 noon ∧ aligned.stc.store.isLoading = false ∧ channelSettingsOf ⟨0, 50, 1500, 2, 0, 0, 0, 1⟩ = none ∧
    (channelSettingsOf ⟨0, 50, 1500, 0, 0, 0, 0, 1⟩).isSome = true := by decide

/-- Its entry to QUIET, with a pulse in progress and reports, and its change of D, past the phase and before it (R37, R159, R161, R162). -/
theorem test_witness_ChannelSetApplied_quieted :
    let s := (windowed (reports15.take 2) 3).onChannel .tp2 (fun c => { c with pulseEnd := some (2 * noon), linePolarity := .negative, openingServed := false })
    let u := after s (.channelSet .tp2 noon ⟨30, 100000, 1500, 0, 0, 0, 0, 0⟩)
    let v (d : BitVec 32) : State := after s (.channelSet .tp2 noon ⟨d, 100000, 1500, 0, 0, 0, 0, 1⟩)
    ((u.oc.get .tp2).state, (u.oc.get .tp2).pulseEnd, (u.oc.get .tp2).linePolarity, (u.rfe.windows.get .tp2)) =
      (.quiet .disabled, none, .positive, flushed s .tp2) ∧
    (((v 0).oc.get .tp2).openingServed, ((v 0).oc.get .tp2).closingServed, ((v 0).oc.get .tp2).pulseEnd, ((v 0).oc.get .tp2).linePolarity,
      ((v 0).rfe.windows.get .tp2).reports) = (true, false, some (2 * noon), .negative, []) ∧
    ((v 1000000).oc.get .tp2).openingServed = false := by decide +kernel

/-- BudgetFollowsBound's entry to QUIET: in FREERUN with SQUELCH, a pulse in progress and reports (R37, R161, R165). -/
theorem test_witness_BudgetFollowsBound_quieted :
    let s := (windowed (reports15.take 2) 3).onChannel .tp2 (fun c => { c with
      settings := { c.settings with limit := 10, action := .squelch }, pulseEnd := some (2 * noon), linePolarity := .negative })
    let u := after s (.loopUpdate loopLast)
    ((s.oc.get .tp2).state = .active ∧ (u.oc.get .tp2).state = .quiet .overBudget) ∧
    ((u.oc.get .tp2).overBudget, (u.oc.get .tp2).pulseEnd, (u.oc.get .tp2).linePolarity, u.rfe.windows.get .tp2) =
      (true, none, (s.oc.get .tp2).settings.polarity, flushed s .tp2) := by decide +kernel

theorem test_witness_TransactionBegins :
    base.running = true ∧ (base.tp.get .tp0).transmit = none ∧
    (((after base (.transactionStart .tp0)).tp.get .tp0).transmit.map (fun x => x.statusOut)) = some false := by decide +kernel

/-- A transaction in progress on TP2. -/
def transacting : State := aligned.onPort .tp2 (fun p => { p with transmit := some ⟨none, 0, true⟩ })

/-- BadFrameCounted: a short frame; a length of 61; a frame whose last byte is no CRC-8 of the others. -/
theorem test_witness_BadFrameCounted :
    Timely transacting noon ∧ (transacting.tp.get .tp2).transmit = some ⟨none, 0, true⟩ ∧ ([0x01#8, 0x00#8] : List Byte).length < 3 ∧
    60 < (([0x01, 0x3D, 0x00] : List Byte).getD 1 0).toNat ∧
    ([0xFF, 0x00, 0x01] : List Byte).getD 2 0 ≠ crc8 (([0xFF, 0x00, 0x01] : List Byte).take 2) := by decide +kernel

theorem test_witness_AttentionPulseEnds :
    let s := aligned.onPort .tp0 (fun p => { p with pulseEnd := some 401000000 })
    Timely s 401000000 ∧ (s.tp.get .tp0).pulseEnd = some 401000000 := by decide

theorem test_witness_RequestIsTransaction :
    base.running = true ∧ (base.tp.get .tp0).transmit = none ∧
    outboundSize (base.tp.get .tp0) ≤ (List.append Request.poll.frame [0x00]).length := by decide +kernel

theorem test_witness_QueuesStaySound :
    QueuesSound (waiting (queued fullQueue) .epoch) ∧
    step (waiting (queued fullQueue) .epoch) = .next (after { queued fullQueue with pending := [] } .epoch) :=
  ⟨by decide, step_waiting _ _⟩

/-- PollStatusIdentify, ReadRequestsAnswered, PortRequests, ModelCleared, SiteSetChecked, SiteFreezeSets, SaveRequests: a port with eight frames. -/
theorem test_witness_Ready :
    Ready (queued fullQueue) .tp2 noon ∧ (queued fullQueue).stc.store.isLoading = false ∧ (queued fullQueue).stc.store = .idle ∧
    (queued fullQueue).sst.frozen = false := by decide

/-- ModelCleared's other clauses: frozen; a save in flight; an episode open, with its record. -/
theorem test_witness_ModelCleared :
    ({ aligned with sst := { aligned.sst with frozen := true } } : State).sst.frozen = true ∧
    Ready (saving .site .auto) .tp0 noon ∧ (saving .site .auto).stc.store.isLoading = false ∧ (saving .site .auto).stc.store ≠ .idle ∧
    (saving .site .auto).sst.frozen = false ∧
    (Ready (regaining 600 0) .tp0 noon ∧ (regaining 600 0).stc.store = .idle ∧ (regaining 600 0).hop.isOpen = true ∧
      (regaining 600 0).hop.episodes = [openRecord]) := by decide

theorem test_witness_BusyWhileLoading :
    Ready released .tp0 noon ∧ released.stc.store.isLoading = true ∧ Request.siteSave ≠ .poll ∧ Request.siteSave ≠ .status ∧
    Request.siteSave ≠ .identify := by decide

/-- SiteSetChecked's clauses: no such instance; a choice out of its encodings; the two ends of a range; and an inhibit setting changed to on,
to off and not at all. -/
theorem test_witness_SiteSetChecked :
    Setting.named 0x0D 1 = none ∧ Setting.named 0x02 1 = some (.inhibit (.phase (.pulse .p2))) ∧
    (Setting.inhibit (.phase (.pulse .p2))).isChoice = true ∧ ¬((2#48).toInt ≤ (Setting.inhibit (.phase (.pulse .p2))).range.2) ∧
    Setting.named 0x0D 0 = some .pullRange ∧ Setting.pullRange.range = (10000, 2000000) ∧
    (let r : Ref := .phase (.pulse .p2)
     let on := after base (.siteSet .tp1 noon 0x02 1 1)
     SettingsInRange base ∧ base.site.val (.inhibit r) = 0 ∧ (1#48).toInt = 1 ∧ (base.record r).state ≠ .inhibited ∧
     on.site.val (.inhibit r) = 1 ∧ (0#48).toInt = 0 ∧ (on.record r).state = .inhibited ∧
     ((after on (.siteSet .tp1 (2 * noon) 0x02 1 0)).record r).state = .absent) := by decide +kernel

theorem test_witness_FrozenRecordFixed :
    isReset (.siteSet .tp0 noon 0x0D 0 20000) = false ∧ aligned.stc.store ≠ .loadingSite ∧
    ({ aligned with sst := { aligned.sst with frozen := true } } : State).sst.frozen = true ∧
    exec (.siteSet .tp0 noon 0x0D 0 20000) { aligned with sst := { aligned.sst with frozen := true } } =
      .next (after { aligned with sst := { aligned.sst with frozen := true } } (.siteSet .tp0 noon 0x0D 0 20000)) :=
  ⟨by decide, by decide, by decide, exec_after _ _⟩

theorem test_witness_SettingsStayInRange :
    SettingsInRange (waiting base (.siteSet .tp0 noon 0x0D 0 20)) ∧
    step (waiting base (.siteSet .tp0 noon 0x0D 0 20)) = .next (after { base with pending := [] } (.siteSet .tp0 noon 0x0D 0 20)) :=
  ⟨by decide +kernel, step_waiting _ _⟩

/-- ModelLoadRestores' read-back: the model of section 5.5.1, and an open episode, whose record the save gives its duration and bound. -/
theorem test_witness_ModelLoadRestores_readBack :
    ModelStorable modelExample ∧ EpisodesStorable (regaining 600 0).hop ∧
    episodesSaved (regaining 600 0).hop = [{ openRecord with duration := some 600, boundAtExit := some 20 }] := by decide +kernel

theorem test_witness_SiteImageReadsBack : SiteRecord.factory.inRange = true := by decide +kernel

theorem test_witness_SaveRequests :
    (Ready base .tp0 noon ∧ base.stc.store = .idle) ∧ Ready (saving .model .auto) .tp0 noon ∧
    (saving .model .auto).stc.store = .saving (saveExample .model .auto) := by decide

/-- UnrequestedSavesStart: due, and an epoch short of it. -/
theorem test_witness_UnrequestedSavesStart :
    let s (n : Nat) : State := { aligned with stc := { aligned.stc with autosaveCount := n } }
    ((s 21600).running = true ∧ (s 21600).tsu.phase = 0 ∧ (s 21600).stc.store = .idle ∧ (s 21600).stc.pendingEmergency = false ∧
      (s 21600).site.nat .autosaveInterval ≠ 0 ∧ 3600 * (s 21600).site.nat .autosaveInterval ≤ (s 21600).stc.autosaveCount) ∧
    ¬3600 * (s 21599).site.nat .autosaveInterval ≤ (s 21599).stc.autosaveCount := by decide +kernel

/-- SaveEnds, at both sides of the count of operations that ends a save OK; a requested save with its reservation; and a save that places a
STORE notice, with room and in a full queue that holds one. -/
theorem test_witness_SaveEnds :
    let s := saving .model .auto
    let asked := (saving .site (.requested .tp0)).onPort .tp0 (fun p => { p with reservation := true })
    (Timely s noon ∧ s.stc.store = .saving (saveExample .model .auto) ∧ s.stc.owed.length ≤ (saveExample .model .auto).ops.length ∧
      (saveExample .model .auto).ops.length ≤ 2 ∧ 1 < (saveExample .model .auto).ops.length) ∧
    ((asked.tp.get .tp0).reservation = true ∧ (asked.tp.get .tp0).places ≤ 8) ∧
    (s.tp.get .tp0).places < 8 ∧ 0 < noticeCount (frame (some .store) 0x88 :: List.replicate 7 (frame none 0x03)) .store := by decide

end Sys2Proof.Tests
end

section
/-! SUPPORT. What every command can do to the time scale, said once: it moves the phase forward within the interval, resets the TSU,
raises an epoch, or ends a loop update with one step at most. -/

namespace Sys2Proof.Machine

open Sys2Proof Sys2Proof.Safety

/-! ## Events of the Qualifier and the front end -/

section

variable {s u : State}

theorem RquFrame.lowerFaultLimit {k : Kind} (h : RquFrame s u) : RquFrame s (u.lowerFaultLimit k) := by
  refine RquFrame.foldl (fun v r g => ?_) refs u h
  split
  · exact g.of_sample (.onRecord (.refl _))
  · exact g

theorem RquFrame.thresholdChanged {k : Port} (h : RquFrame s u) : RquFrame s (u.thresholdChanged k) := by
  unfold State.thresholdChanged
  dsimp only
  split
  · exact .closeWindow h
  · exact h

theorem RquFrame.finish {w : Work} {t : Trigger} (h : RquFrame s w.st) : RquFrame s (w.finish t) := h.of_sample (.finish (.refl _))

/-- What a changed setting does at once stays in the Qualifier and the front end (R186). -/
theorem RquFrame.settingChanged {x : Setting} {old : Int} (h : RquFrame s u) : RquFrame s (u.settingChanged x old) := by
  unfold State.settingChanged
  split
  · split
    · exact .finish (.inhibit h)
    · exact .finish (.release h)
  · exact .finish h
  · exact .finish h
  · split
    · exact .lowerFaultLimit h
    · exact h
  · exact .thresholdChanged h
  · exact h.rfe _
  · exact h

end

/-! ## What leaves the time scale as it is -/

section

variable (s : State)

@[simp] theorem State.reportHealth_tsu (before : State) : (s.reportHealth before).tsu = s.tsu := by
  obtain ⟨t, h⟩ := reportHealth_keeps s before
  rw [h, ← s.recompute_tsu]

@[simp] theorem State.evaluateChannel_tsu (k : Port) : (s.evaluateChannel k).tsu = s.tsu := by
  obtain ⟨x, w, h⟩ := evaluateChannel_keeps s k
  rw [h]

@[simp] theorem State.applyChannel_tsu (k : Port) (x : ChannelSettings) : (s.applyChannel k x).tsu = s.tsu := by
  rw [applyChannel_spec]

@[simp] theorem State.applySetting_tsu (k : Port) (x : Setting) (v : Int) : (s.applySetting k x v).tsu = s.tsu := by
  unfold State.applySetting
  split
  · rfl
  · exact (RquFrame.settingChanged (.refl _)).tsu

@[simp] theorem State.freeze_tsu (k : Port) : (s.freeze k).tsu = s.tsu := by
  unfold State.freeze
  dsimp only
  split <;> rfl

@[simp] theorem State.takeReport_tsu (k : Port) (b : PortState) (f : OffsetFields) : (s.takeReport k b f).tsu = s.tsu :=
  (RquFrame.takeReport (.refl s)).tsu

@[simp] theorem State.requestSave_tsu (k : Port) (kind : Nat) (a : Area) : (s.requestSave k kind a).tsu = s.tsu := by
  unfold State.requestSave
  split <;> rfl

@[simp] theorem State.noticeEpisode_tsu (closed : Bool) : (s.noticeEpisode closed).tsu = s.tsu := by
  unfold State.noticeEpisode
  split <;> rfl

@[simp] theorem answerPortSet_tsu (k : Port) (m p l : Byte) : (answerPortSet k m p l s).tsu = s.tsu := by
  unfold answerPortSet
  split <;> rfl

@[simp] theorem answerOffsetReport_tsu (k : Port) (b : PortState) (f : OffsetFields) : (answerOffsetReport k b f s).tsu = s.tsu := by
  simp [answerOffsetReport]

@[simp] theorem answerModelClear_tsu (k : Port) : (answerModelClear k s).tsu = s.tsu := by
  unfold answerModelClear
  dsimp only
  split <;> simp

@[simp] theorem answerChannelSet_tsu (k : Port) (f : ChannelFields) : (answerChannelSet k f s).tsu = s.tsu := by
  unfold answerChannelSet
  split <;> simp

@[simp] theorem answerSiteSet_tsu (k : Port) (i n : Byte) (v : BitVec 48) : (answerSiteSet k i n v s).tsu = s.tsu := by
  unfold answerSiteSet
  split <;> simp

/-- No request's owner touches the time scale. -/
@[simp] theorem State.answer_tsu (k : Port) (note : PortNote) (q : Request) : (s.answer k note q).tsu = s.tsu := by
  cases q with
  | portSet m p l => exact answerPortSet_tsu s k m p l
  | offsetReport f => exact answerOffsetReport_tsu s k note.state f
  | modelClear => exact answerModelClear_tsu s k
  | channelSet f => exact answerChannelSet_tsu s k f
  | siteSet i n v => exact answerSiteSet_tsu s k i n v
  | siteFreeze => exact s.freeze_tsu k
  | siteSave => exact s.requestSave_tsu k 0x13 .site
  | modelSave => exact s.requestSave_tsu k 0x14 .model
  | _ => rfl

@[simp] theorem State.dispatch_tsu (k : Port) (note : PortNote) (q : Request) : (s.dispatch k note q).tsu = s.tsu := by
  unfold State.dispatch
  split
  · rfl
  · split <;> simp

@[simp] theorem State.receive_tsu (k : Port) (x : Inbound) : (s.receive k x).tsu = s.tsu := by
  unfold State.receive State.dispatchFrame
  split
  · rfl
  · split <;> simp

/-- A request's transaction only moves the phase to its instant. -/
@[simp] theorem State.request_tsu (k : Port) (t : Nat) (q : Request) : (s.request k t q).tsu = s.tsu.advance t := by
  simp [State.request, State.advanceTo]

@[simp] theorem State.completeSequence_tsu (raw : RawCounts) : (s.completeSequence raw).tsu = s.tsu := by
  unfold State.completeSequence State.warmStep
  dsimp only
  rw [State.reportHealth_tsu]
  split <;> split <;> rfl

@[simp] theorem State.endSave_tsu (v : Save) (ok : Bool) (done begun : Nat) : (s.endSave v ok done begun).tsu = s.tsu := by
  have hstart : ∀ u : State, u.startPending.tsu = u.tsu := fun u => by
    unfold State.startPending
    split <;> rfl
  have htell : ∀ u : State, (u.tellSave v ok).tsu = u.tsu := fun u => by
    unfold State.tellSave
    split <;> rfl
  rw [State.endSave, hstart, htell]
  rfl

@[simp] theorem State.endLoading_tsu (before : State) : (s.endLoading before).tsu = s.tsu := by
  rw [State.endLoading, State.reportHealth_tsu, (RquFrame.inhibitAtStart (.refl _)).tsu]

@[simp] theorem State.loadModel_tsu (content : Option (List Byte)) : (s.loadModel content).tsu = s.tsu := by
  have hinterrupt : ∀ u : State, u.interruptEpisode.tsu = u.tsu := fun u => by
    unfold State.interruptEpisode
    split <;> simp
  unfold State.loadModel
  split
  · simp
  · rw [State.endLoading_tsu, hinterrupt]
    rfl

end

/-! ## Epochs -/

/-- The minute mark's work is the Learning Unit's, where the minute changes (R5, R97). -/
theorem minuteMark_keeps (s : State) (prevLabel : Sec) :
    s.minuteMark prevLabel = { s with
      lrn := if minuteMarkDue s.tsu.seconds prevLabel then s.lrn.minuteMark (s.site.val .tempRateLimit) s.tosc s.tsu.seconds
        else s.lrn } := by
  unfold State.minuteMark
  split <;> rfl

/-- An epoch: the timers and counts, the time scale, the minute mark's work where it is due, and the queues (R3, R5). -/
theorem raiseEpoch_eq (s : State) : ∃ tp, s.raiseEpoch =
    { s.countEpoch s.tsu.interval with
      tsu := s.tsu.epoch
      lrn := if minuteMarkDue (s.tsu.seconds + 1) s.tsu.prevLabel then
          s.lrn.minuteMark (s.site.val .tempRateLimit) s.tosc (s.tsu.seconds + 1)
        else s.lrn
      tp := tp } := by
  obtain ⟨tp, h⟩ := timeMarks_keeps (({ s.countEpoch s.tsu.interval with tsu := s.tsu.epoch }).minuteMark s.tsu.prevLabel)
  refine ⟨tp, ?_⟩
  rw [State.raiseEpoch, h, minuteMark_keeps]
  rfl

theorem raiseEpoch_tsu (s : State) : s.raiseEpoch.tsu = s.tsu.epoch := by
  obtain ⟨tp, h⟩ := raiseEpoch_eq s
  rw [h]

/-- A minute mark is due where the label's minute is another than the preceding epoch's (R5). -/
theorem minuteMarkDue_iff (label prevLabel : Sec) : minuteMarkDue label prevLabel = true ↔ label.toNat / 60 ≠ prevLabel.toNat / 60 := by
  simp [minuteMarkDue]

/-- Every record's hold-off is counted (R5, R51). -/
theorem record_countEpoch (s : State) (length : Nat) (r : Ref) : (s.countEpoch length).record r = (s.record r).epoch := by
  cases r with
  | f1 => rfl
  | phase r =>
    cases r with
    | pulse p => cases p <;> rfl
    | packet k => exact perPort_get_map RefRecord.epoch _ k

/-- The autosave count counts epochs in LOCKED alone (R191). -/
theorem stcEpoch_eq (x : Stc) (e : Engine) :
    x.epoch e = { x with autosaveCount := if e.isLocked then min 86400 (x.autosaveCount + 1) else x.autosaveCount } := by
  unfold Stc.epoch
  rw [satSucc_eq_min]
  split <;> rfl

/-! ## Steps -/

theorem takeStep_remainder_getD (x : Tsu) (q : StepRequest) : (x.takeStep q).remainder.getD 0 = splitRemainder (x.combined q) := by
  show (if splitRemainder (x.combined q) = 0 then none else some (splitRemainder (x.combined q))).getD 0 = _
  split
  · next h => simp [h]
  · rfl

/-- The entry to HOLDOVER takes no step. -/
theorem loseReference_tsu (v : State) (followed : PhaseRef) (x : LoopInput) : (v.loseReference followed x).st.tsu = v.tsu := by
  have hsteering : ∀ (u : State) e d, (u.enterSteering e d).1.tsu = u.tsu := fun u e d => by
    unfold State.enterSteering
    split <;> rfl
  simp [State.loseReference, State.enterHoldover, State.decided, hsteering]

/-- An update that stays in HOLDOVER takes no step. -/
theorem runHoldover_tsu (v : State) (m : HoldMode) (x : LoopInput) : (v.runHoldover m x).st.tsu = v.tsu := by
  have hupdate : ∀ m' fPrev d, (v.holdoverUpdate m m' fPrev d).1.tsu = v.tsu := fun m' fPrev d => by
    unfold State.holdoverUpdate
    dsimp only
    split <;> split <;> rfl
  exact hupdate _ _ _

/-- The decision of a loop update, by what the loop reads in the part as it finds it (R71). -/
abbrev State.updateDecision (s : State) (order : List UpdatePart) : Decision :=
  (atLoop order s).spendEstimates.decideUpdate ((atLoop order s).readLoop (gateOffset s))

/-- What the samples before the decision, and the spending of the estimates, leave as it was. -/
theorem found_frame (s : State) (order : List UpdatePart) :
    RquFrame (s.advanceTo (s.tsu.interval / 2)) (atLoop order s).spendEstimates := .spendEstimates (atLoop_frame s order)

/-- A decision takes one step at most. -/
abbrev StepsOnce (v : State) (r : Decision) : Prop := r.st.tsu = v.tsu ∨ ∃ q, r.st.tsu = v.tsu.takeStep q

theorem follow_stepsOnce (v : State) (f r : PhaseRef) (x : PhaseEstimate) : StepsOnce v (v.follow f r x) := by
  unfold State.follow
  dsimp only
  split
  · exact .inr ⟨_, rfl⟩
  · split
    · exact .inl rfl
    · split <;> exact .inl rfl

theorem regain_stepsOnce (v : State) (r : PhaseRef) (x : PhaseEstimate) : StepsOnce v (v.regain r x) := by
  have hexit : (v.exitHoldover x.e).tsu = v.tsu := State.noticeEpisode_tsu _ _
  unfold State.regain StepsOnce
  dsimp only
  rw [← hexit]
  split
  · exact .inr ⟨_, rfl⟩
  · exact .inl rfl

theorem decideFollowing_stepsOnce (v : State) (f : PhaseRef) (x : LoopInput) : StepsOnce v (v.decideFollowing f x) := by
  unfold State.decideFollowing
  split
  · exact .inl (loseReference_tsu v f x)
  · exact follow_stepsOnce v f _ _
  · exact .inl rfl

theorem decideUpdate_stepsOnce (v : State) (x : LoopInput) : StepsOnce v (v.decideUpdate x) := by
  unfold State.decideUpdate
  split
  · split
    · exact .inr ⟨_, rfl⟩
    · exact .inl rfl
  · exact decideFollowing_stepsOnce v _ x
  · exact decideFollowing_stepsOnce v _ x
  · split
    · exact regain_stepsOnce v _ _
    · exact .inl (runHoldover_tsu v _ x)

/-! ## Changes of the time scale -/

/-- What a command can do to the TSU: move the phase forward within the interval, reset it, raise an epoch, or, in a loop update, derive
class and bound, with a step before it or without one. -/
inductive TsuChange (x : Tsu) : Instr → Tsu → Prop
  | moved (c : Instr) (t : Nat) : TsuChange x c (x.advance t)
  | reset (cause : StartCause) (progress : SaveProgress) : TsuChange x (.hardwareReset cause progress) Tsu.reset
  | epoch : TsuChange x .epoch x.epoch
  | derived (order : List UpdatePart) (t cls bound : Nat) :
      TsuChange x (.loopUpdate order) { x.advance t with cls := cls, bound := bound }
  | stepped (order : List UpdatePart) (t : Nat) (q : StepRequest) (cls bound : Nat) :
      TsuChange x (.loopUpdate order) { (x.advance t).takeStep q with cls := cls, bound := bound }

/-- An advance to the phase 0 moves nothing. -/
theorem Tsu.advance_zero (x : Tsu) : x.advance 0 = x := by simp [Tsu.advance]

theorem TsuChange.unchanged (x : Tsu) (c : Instr) : TsuChange x c x := by
  simpa only [Tsu.advance_zero] using TsuChange.moved (x := x) c 0

theorem TsuChange.unchanged_of_eq {x y : Tsu} {c : Instr} (h : y = x) : TsuChange x c y := h ▸ .unchanged x c

theorem TsuChange.moved_of_eq {x y : Tsu} {c : Instr} {t : Nat} (h : y = x.advance t) : TsuChange x c y := h ▸ .moved c t

/-- A loop update moves the phase to the mid-interval mark, takes one step at most, and derives class and bound (R4, R7, R11). -/
theorem loopUpdate_tsuChange (s : State) (order : List UpdatePart) (h : s.running = true) :
    ∃ u, exec (.loopUpdate order) s = .next u ∧ TsuChange s.tsu (.loopUpdate order) u.tsu := by
  obtain ⟨u, v, hexec, hframe, rfl, -, -, -, htsu, -⟩ := update_decided s order h
  refine ⟨u, hexec, ?_⟩
  rw [htsu]
  rcases decideUpdate_stepsOnce (atLoop order s).spendEstimates ((atLoop order s).readLoop (gateOffset s)) with hnone | ⟨q, hstep⟩
  · rw [hnone, hframe.tsu]
    exact .derived order _ _ _
  · rw [hstep, hframe.tsu]
    exact .stepped order _ q _ _

/-- Every command but a hardware reset and its release is taken only while the part runs (log entry 4). -/
theorem exec_whileRunning (c : Instr) (hreset : isReset c = false) (hrelease : isRelease c = false) :
    ∃ f, ∀ s, exec c s = whileRunning s f := by
  cases c with
  | hardwareReset cause progress => cases hreset
  | resetRelease => cases hrelease
  | _ => exact ⟨_, fun _ => rfl⟩

/-- A request command is its transaction. -/
theorem exec_command (s : State) (h : s.running = true) (k : Port) (t : Nat) (q : Request) :
    exec (command k t q) s = .next (s.request k t q) := by
  have hcommand : exec (command k t q) s = whileRunning s (fun s => s.request k t q) := by cases q <;> rfl
  rw [hcommand, whileRunning_running s _ h]

/-- A request command only moves the phase to its instant. -/
theorem command_tsuChange (s : State) (h : s.running = true) (k : Port) (t : Nat) (q : Request) :
    ∃ u, exec (command k t q) s = .next u ∧ TsuChange s.tsu (command k t q) u.tsu :=
  ⟨_, exec_command s h k t q, .moved_of_eq (s.request_tsu k t q)⟩

/-- What a command does to the time scale of a part that runs. -/
theorem exec_tsuChange_running (c : Instr) (s : State) (h : s.running = true) : ∃ u, exec c s = .next u ∧ TsuChange s.tsu c u.tsu := by
  cases c with
  | hardwareReset cause progress => exact ⟨_, rfl, .reset cause progress⟩
  | resetRelease => exact ⟨_, rfl, .unchanged_of_eq (by rw [if_pos h])⟩
  | siteLoad a => exact ⟨_, exec_siteLoad s h a, .unchanged_of_eq (by split <;> rfl)⟩
  | modelLoad t a => exact ⟨_, exec_modelLoad s h t a, .moved_of_eq (t := t) (by split <;> simp [State.advanceTo])⟩
  | epoch => exact ⟨_, exec_epoch s h, raiseEpoch_tsu s ▸ .epoch⟩
  | autosave => exact ⟨_, exec_autosave s h, .unchanged_of_eq (by split <;> [split <;> rfl; rfl])⟩
  | holdOffExpiry r =>
    exact ⟨_, exec_holdOffExpiry s h r, .unchanged_of_eq (by
      split
      · exact (RquFrame.finish (.expire (.refl s))).tsu
      · rfl)⟩
  | settlingExpiry => exact ⟨_, exec_settlingExpiry s h, .unchanged_of_eq (by split <;> rfl)⟩
  | loopUpdate order => exact loopUpdate_tsuChange s order h
  | slewTick k => exact ⟨_, exec_slewTick s h k, .moved_of_eq rfl⟩
  | pulseArrival p t => exact ⟨_, exec_pulseArrival s h p t, .moved_of_eq (RquFrame.pulse (.refl (s.advanceTo t))).tsu⟩
  | companionRecord p bytes => exact ⟨_, exec_companionRecord s h p bytes, .unchanged_of_eq rfl⟩
  | staleTimerExpiry k =>
    exact ⟨_, exec_staleTimerExpiry s h k, .unchanged_of_eq (by
      split
      · exact (RquFrame.staleExpiry (.refl s)).tsu
      · rfl)⟩
  | pulseDue k =>
    refine ⟨_, exec_pulseDue s h k, ?_⟩
    split
    · exact .unchanged _ _
    · exact .moved_of_eq rfl
  | pulseEnd k =>
    refine ⟨_, exec_pulseEnd s h k, ?_⟩
    split
    · exact .unchanged _ _
    · split
      · exact .moved_of_eq rfl
      · exact .unchanged _ _
  | attentionPulseEnd k =>
    refine ⟨_, exec_attentionPulseEnd s h k, ?_⟩
    split
    · exact .unchanged _ _
    · split
      · exact .moved_of_eq rfl
      · exact .unchanged _ _
  | sensorSequenceStart => exact ⟨_, exec_sensorSequenceStart s h, .unchanged_of_eq rfl⟩
  | vctlSample => exact ⟨_, exec_vctlSample s h, .unchanged_of_eq (by split <;> rfl)⟩
  | sequenceComplete t raw => exact ⟨_, exec_sequenceComplete s h t raw, .moved_of_eq (t := t) (by split <;> simp [State.advanceTo])⟩
  | transactionStart k => exact ⟨_, exec_transactionStart s h k, .unchanged_of_eq rfl⟩
  | statusByteClockedOut k => exact ⟨_, exec_statusByteClockedOut s h k, .unchanged_of_eq rfl⟩
  | frameReceived k t bytes =>
    exact ⟨_, exec_frameReceived s h k t bytes, .moved_of_eq (t := t) (by split <;> simp [State.advanceTo])⟩
  | saveEnd t clean => exact ⟨_, exec_saveEnd s h t clean, .moved_of_eq (t := t) (by split <;> simp [State.advanceTo])⟩
  | saveTimeout t progress =>
    exact ⟨_, exec_saveTimeout s h t progress, .moved_of_eq (t := t) (by split <;> simp [State.advanceTo])⟩
  | powerFailWarning => exact ⟨_, exec_powerFailWarning s h, .unchanged_of_eq (by split <;> [rfl; split <;> rfl; rfl])⟩
  | f1Edge t => exact ⟨_, exec_f1Edge s h t, .moved_of_eq rfl⟩
  | poll k t => exact command_tsuChange s h k t .poll
  | status k t => exact command_tsuChange s h k t .status
  | identify k t => exact command_tsuChange s h k t .identify
  | portSet k t m p l => exact command_tsuChange s h k t (.portSet m p l)
  | portReset k t => exact command_tsuChange s h k t .portReset
  | offsetReport k t f => exact command_tsuChange s h k t (.offsetReport f)
  | referenceGet k t i x => exact command_tsuChange s h k t (.referenceGet i x)
  | historyGet k t i => exact command_tsuChange s h k t (.historyGet i)
  | tableGet k t i => exact command_tsuChange s h k t (.tableGet i)
  | healthGet k t => exact command_tsuChange s h k t .healthGet
  | modelClear k t => exact command_tsuChange s h k t .modelClear
  | episodeGet k t i x => exact command_tsuChange s h k t (.episodeGet i x)
  | sensorGet k t => exact command_tsuChange s h k t .sensorGet
  | channelSet k t f => exact command_tsuChange s h k t (.channelSet f)
  | channelGet k t => exact command_tsuChange s h k t .channelGet
  | siteGet k t i n => exact command_tsuChange s h k t (.siteGet i n)
  | siteSet k t i n v => exact command_tsuChange s h k t (.siteSet i n v)
  | siteFreeze k t => exact command_tsuChange s h k t .siteFreeze
  | siteSave k t => exact command_tsuChange s h k t .siteSave
  | modelSave k t => exact command_tsuChange s h k t .modelSave

/-- While reset is held, a command leaves the time scale or resets it. -/
theorem exec_tsuChange_held (c : Instr) (s : State) (h : s.running = false) : ∃ u, exec c s = .next u ∧ TsuChange s.tsu c u.tsu := by
  by_cases hreset : isReset c = false
  · by_cases hrelease : isRelease c = false
    · obtain ⟨f, hf⟩ := exec_whileRunning c hreset hrelease
      exact ⟨s, (hf s).trans (whileRunning_held s f h), .unchanged _ _⟩
    · cases c with
      | resetRelease => exact ⟨_, rfl, .unchanged_of_eq (by rw [h]; rfl)⟩
      | _ => exact absurd rfl hrelease
  · cases c with
    | hardwareReset cause progress => exact ⟨_, rfl, .reset cause progress⟩
    | _ => exact absurd rfl hreset

/-- Every command changes the time scale in one of the ways of `TsuChange`. -/
theorem exec_tsuChange {c : Instr} {s u : State} (h : exec c s = .next u) : TsuChange s.tsu c u.tsu := by
  obtain ⟨u', hexec, hchange⟩ : ∃ u', exec c s = .next u' ∧ TsuChange s.tsu c u'.tsu := by
    cases hrunning : s.running with
    | true => exact exec_tsuChange_running c s hrunning
    | false => exact exec_tsuChange_held c s hrunning
  cases hexec.symm.trans h
  exact hchange

/-- Every change of the time scale keeps the ranges (R1, R7, R8). -/
theorem TsuChange.timeRegular {x y : Tsu} {c : Instr} (h : TsuChange x c y) (hx : TimeRegular x) : TimeRegular y := by
  obtain ⟨hshort, hlong, hphase, hlow, hhigh⟩ := hx
  have hadvance : ∀ t, (x.advance t).phase < x.interval := fun t => by
    show max x.phase (min t (x.interval - 1)) < x.interval
    omega
  cases h with
  | moved c t => exact ⟨hshort, hlong, hadvance t, hlow, hhigh⟩
  | reset cause progress => decide
  | epoch =>
    have hinterval : x.epoch.interval = (1000000000000 - x.remainder.getD 0).toNat := rfl
    have hphase' : x.epoch.phase = 0 := rfl
    have hremainder : x.epoch.remainder.getD 0 = 0 := rfl
    unfold TimeRegular
    omega
  | derived order t cls bound => exact ⟨hshort, hlong, hadvance t, hlow, hhigh⟩
  | stepped order t q cls bound =>
    obtain ⟨-, hlow', hhigh'⟩ := splitSeconds_spec ((x.advance t).combined q)
    rw [← takeStep_remainder_getD] at hlow' hhigh'
    exact ⟨hshort, hlong, hadvance t, hlow', hhigh'⟩

/-- Once set, the traceable flag is cleared by a hardware reset alone (R10). -/
theorem TsuChange.traceable {x y : Tsu} {c : Instr} (h : TsuChange x c y) (hreset : isReset c = false) (hx : x.traceable = true) :
    y.traceable = true := by
  cases h with
  | reset cause progress => cases hreset
  | stepped order t q cls bound =>
    show (x.traceable || q.alignment) = true
    rw [hx, Bool.true_or]
  | moved c t => exact hx
  | epoch => exact hx
  | derived order t cls bound => exact hx

end Sys2Proof.Machine
end

section
/-! SUPPORT. What a loop update derives at its end, and what one leaves whose decision takes a step. -/

namespace Sys2Proof.Machine

open Sys2Proof Sys2Proof.Safety

/-! ## Class and bound -/

theorem updateDecision_site (s : State) (order : List UpdatePart) : (s.updateDecision order).st.site = s.site :=
  (decideUpdate_rest _ _).2.2.trans (frame_site (found_frame s order)).1

/-- A loop update leaves the settings. -/
theorem update_site (s : State) (order : List UpdatePart) : (s.update order).site = s.site := by
  obtain ⟨l, c, w, t, hhandOn⟩ := handOn_keeps (s.updateDecision order) (atLoop order s) ((atLoop order s).readLoop (gateOffset s))
  calc (s.update order).site
      = ((atLoop order s).loopPart (gateOffset s)).site := congrArg Sst.record (update_atLoop s order).sst
    _ = (s.updateDecision order).st.site := by rw [State.loopPart, hhandOn]
    _ = s.site := updateDecision_site s order

/-- The class and B after a loop update are derived from the settings, the loop's record and the Predictor's bound as the update leaves them
(R11, R13, R14). -/
theorem update_derives (s : State) (order : List UpdatePart) (h : s.running = true) : ∃ u, exec (.loopUpdate order) s = .next u ∧
    u.site = s.site ∧ u.tsu.bound = deriveBound s.site u.dlp u.hop.bound ∧ u.tsu.cls = deriveClass s.site u.dlp.engine u.tsu.bound := by
  obtain ⟨u, v, hexec, -, rfl, hdlp, hhop, -, htsu, -⟩ := update_decided s order h
  have hsite := updateDecision_site s order
  refine ⟨u, hexec, ?_, ?_, ?_⟩
  · cases hexec.symm.trans (exec_loopUpdate s h order)
    exact update_site s order
  · rw [htsu, hdlp, hhop, hsite]
  · rw [htsu, hdlp, hsite]

/-- The picoseconds of a last e as nanoseconds, rounded up (R13). -/
theorem ceiling_thousand (n : Nat) : (ceiling (n : Int) 1000).toNat = (n + 999) / 1000 := ceiling_nat n 1000 (by decide)

/-! ## A step into ACQUIRING -/

/-- An update whose decision takes a step into ACQUIRING with e as 0: the step and settling, the flag, the record, and class and bound by
the record (R7, R10, R11, R13, R84). -/
theorem update_steps (s : State) (order : List UpdatePart) (h : s.running = true) (w : State) (d : Dlp) (q : StepRequest) (r : PhaseRef)
    (hw : w.tsu = (atLoop order s).tsu) (hengine : d.engine = .acquiring r) (hlastE : d.lastE = 0)
    (hdecision : (s.updateDecision order).st = ({ w with dlp := d } : State).issue q) :
    ∃ u, exec (.loopUpdate order) s = .next u ∧ StepTaken s u q.whole q.ps ∧ u.tsu.traceable = (s.tsu.traceable || q.alignment) ∧
      u.tsu.cls = 3 ∧ u.tsu.bound = s.site.nat (.lockedUncertainty r.kind) + (if d.coarse then 8 else 0) ∧
      u.dlp = { d with settling := u.dlp.settling } := by
  obtain ⟨u, v, hexec, -, rfl, hdlp, -, -, htsu, -⟩ := update_decided s order h
  obtain ⟨u', hexec', -, hbound, hcls⟩ := update_derives s order h
  cases hexec.symm.trans hexec'
  obtain ⟨-, -, -, -, -, -, hseconds, hremainder, htraceable⟩ := frame_site (atLoop_frame s order)
  rw [← hw] at hseconds hremainder htraceable
  rw [hdecision] at hdlp htsu
  obtain ⟨hstep, hrecord⟩ := stepTaken s w d q u hseconds hremainder (by rw [htsu]) (by rw [htsu]) hdlp
  have hengine' : u.dlp.engine = .acquiring r := by rw [hrecord, ← hengine]
  refine ⟨u, hexec, hstep, ?_, ?_, ?_, hrecord⟩
  · rw [htsu, ← htraceable]
    rfl
  · rw [hcls, hengine']
    rfl
  · unfold deriveBound at hbound
    rw [hengine', hrecord] at hbound
    rw [hbound, hlastE]
    exact Nat.max_eq_left (Nat.zero_le _)

/-- 256 times a number rounds back to it. -/
theorem nearest_mul_256 (n : Int) : nearest (256 * n) 256 = n := by
  unfold nearest
  split <;> omega

/-- The record that an alignment leaves, but for settling: where the previous f_out lies within the pull range, it stays (R80). -/
theorem align_stepped (v : State) (r : PhaseRef) (x : PhaseEstimate) (hpull : (v.dlp.fOut.natAbs : Int) ≤ v.pull) :
    v.align r x = v.stepped
      { v.dlp with
        engine := .acquiring r, integral := 256 * v.dlp.fOut, prop := 0, lastE := 0, coarse := x.coarse, sinceEstimate := 0
        lockRun := 0, unlockRun := 0, firstEstimate := false }
      (alignmentStep x) := by
  have hintegral : clampAbs (256 * v.pull) (256 * v.dlp.fOut) = 256 * v.dlp.fOut := clampAbs_of_natAbs_le _ _ (by omega)
  have hout : loopOutput v.pull (256 * v.dlp.fOut) 0 = v.dlp.fOut := by
    rw [loopOutput, nearest_mul_256, Int.add_zero, clampAbs_of_natAbs_le _ _ hpull]
  simp only [State.align, State.takeZero, hintegral, hout]

/-- The first estimate of a newly followed reference beyond the step limit is stepped (R83). -/
theorem follow_steps (v s : State) (hsite : v.site = s.site) (hdlp : v.dlp = s.dlp) (f r : PhaseRef) (x : PhaseEstimate)
    (hfirst : s.dlp.firstEstimate = true ∨ r ≠ f) (hsteps : StepsOut s x) :
    v.follow f r x = v.stepped (estimateStepped s s.dlp r x) ⟨false, 0, x.e⟩ := by
  have hflag : (v.dlp.firstEstimate || decide (r ≠ f)) = true := by
    rw [hdlp]
    simpa using hfirst
  unfold State.follow
  dsimp only
  rw [if_pos ((steps_iff v s hsite _ x).2 ⟨hflag, hsteps⟩), ordinary_decided v s hsite, hdlp]
  rfl

/-- An update in FREERUN that may use an estimate aligns (R80). -/
theorem decideUpdate_align (v : State) (m : FreeMode) (r : PhaseRef) (e : PhaseEstimate) (f1 : Bool) (offset : Option Int)
    (h : v.dlp.engine = .freerun m) : v.decideUpdate ⟨some r, some e, f1, offset⟩ = v.align r e := by
  simp only [State.decideUpdate, h]

/-- An update in LOCKED or ACQUIRING that may use an estimate follows the selected reference (R83, R85 to R87). -/
theorem decideUpdate_follow (v : State) (f r : PhaseRef) (e : PhaseEstimate) (f1 : Bool) (offset : Option Int)
    (h : v.dlp.engine = .locked f ∨ v.dlp.engine = .acquiring f) : v.decideUpdate ⟨some r, some e, f1, offset⟩ = v.follow f r e := by
  rcases h with h | h <;> simp only [State.decideUpdate, h, State.decideFollowing]

end Sys2Proof.Machine
end

section
/-! SUPPORT. What each area of the memory device holds after a save that may have been cut short. -/

namespace Sys2Proof.Machine

open Sys2Proof Sys2Proof.Safety

/-- An operation erases a sector of an area where it is an erase of one of the area's sectors. -/
theorem erases_iff (a : Area) (op : MemOp) : op.erases a = true ↔ ∃ addr ∈ a.sectors, op = .erase addr := by
  cases op with
  | erase addr => simp [MemOp.erases]
  | program addr data => simp [MemOp.erases]

/-- An area holds no image once an erase of one of its sectors has begun. -/
theorem erasedBy_of_erase {a : Area} {ops : List MemOp} {old : Option (List Byte)} (h : ∃ addr ∈ a.sectors, .erase addr ∈ ops) :
    erasedBy a ops old = none := by
  obtain ⟨addr, hsector, hop⟩ := h
  exact if_pos (List.any_eq_true.2 ⟨_, hop, (erases_iff a _).2 ⟨addr, hsector, rfl⟩⟩)

/-- An area keeps its image while no erase of one of its sectors has begun. -/
theorem erasedBy_of_no_erase {a : Area} {ops : List MemOp} {old : Option (List Byte)} (h : ¬∃ addr ∈ a.sectors, .erase addr ∈ ops) :
    erasedBy a ops old = old := by
  refine if_neg fun hany => h ?_
  obtain ⟨op, hop, herases⟩ := List.any_eq_true.1 hany
  obtain ⟨addr, hsector, rfl⟩ := (erases_iff a op).1 herases
  exact ⟨addr, hsector, hop⟩

/-- What an area holds after a save that may have been cut short: the save's image where it is the save's area and every operation was
completed, else what the erases begun left (R189). -/
theorem imageIn_after (f : Flash) (v : Save) (completed begun : Nat) (a : Area) :
    imageIn (f.after v completed begun) a =
      if v.area = a ∧ v.ops.length ≤ completed then some v.image else erasedBy a (v.ops.take begun) (imageIn f a) := by
  unfold Flash.after
  by_cases hall : v.ops.length ≤ completed
  · cases harea : v.area <;> cases a <;> simp [hall, imageIn]
  · cases a <;> simp [hall, imageIn]

end Sys2Proof.Machine
end

section
/-! SUPPORT. What the reset state holds for a reference and a port. -/

namespace Sys2Proof.Machine

open Sys2Proof Sys2Proof.Safety

theorem record_reset (r : Ref) : State.reset.record r = RefRecord.reset := perRef_get_same _ _

theorem port_reset (k : Port) : State.reset.tp.get k = TenantPort.reset := perPort_get_same _ _

/-- An empty queue without a reservation is sound. -/
theorem queueSound_reset : QueueSound TenantPort.reset := ⟨by decide, fun _ _ => Nat.zero_le 1⟩

/-- Until loading ends the reset state has no reference selected and every record ABSENT (R42, R43). -/
theorem selectionSound_reset : SelectionSound State.reset := by
  refine ⟨fun r _ hselected => (nomatch hselected), fun _ => ⟨rfl, fun r _ => ?_⟩⟩
  rw [record_reset]
  rfl

end Sys2Proof.Machine
end

section
/-! The statements about hardware reset and the time scale, settled. -/

namespace Sys2Proof.TimeScale

open Sys2Proof Sys2Proof.Machine Sys2Proof.Safety

/-- Settles O10: a step idles or takes the command at the front of the queue, and no change of the time scale leaves the ranges. -/
theorem timeStaysRegular : Obligations.TimeStaysRegular := by
  intro s u hs hstep
  unfold step at hstep
  split at hstep
  · cases hstep
    exact hs
  · exact (exec_tsuChange hstep).timeRegular hs

/-- Settles O11: of the changes of the time scale only the reset clears the flag, and a step adds its kind to it. -/
theorem traceableStays : Obligations.TraceableStays :=
  ⟨rfl, fun _ _ _ => ⟨_, rfl, rfl⟩, fun _ _ => rfl, fun _ _ _ hreset hexec => (exec_tsuChange hexec).traceable hreset⟩

/-- Settles O7: the split of R7 is of the picosecond part with the remainder still pending (R9). -/
theorem stepSplits : Obligations.StepSplits := by
  intro x q
  obtain ⟨hsplit, hlow, hhigh⟩ := splitSeconds_spec (x.combined q)
  refine ⟨splitSeconds (x.combined q), splitRemainder (x.combined q), hsplit, hlow, hhigh, rfl, rfl, rfl, ?_, rfl, rfl⟩
  unfold Tsu.nextInterval
  rw [takeStep_remainder_getD, Config.second]
  omega

/-- Settles O8: the counts of every block, and the temperature-rate gate at a minute mark. -/
theorem epochAdvances : Obligations.EpochAdvances := by
  intro s h
  obtain ⟨tp, hu⟩ := raiseEpoch_eq s
  have hchannel : ∀ k, (s.countEpoch s.tsu.interval).oc.get k = (s.oc.get k).epoch s.tsu.interval := fun k => perPort_get_map _ _ k
  refine ⟨_, (exec_epoch s h).trans (congrArg Host.Outcome.next hu), rfl, fun k _ => perPort_get_map Window.epoch _ k,
    fun r _ => record_countEpoch s s.tsu.interval r, rfl, rfl, rfl, rfl, rfl, rfl, rfl, fun k _ => ?_, rfl, rfl, stcEpoch_eq _ _,
    fun k _ => ?_, ?_⟩
  · dsimp only
    rw [hchannel]
    exact ⟨rfl, rfl⟩
  · dsimp only
    rw [hchannel]
    refine ⟨rfl, fun hnone => ?_, fun e hsome _ => ?_⟩
    · rw [Channel.epoch, hnone]
      rfl
    · rw [Channel.epoch, hsome]
      rfl
  · exact if_congr (minuteMarkDue_iff _ _) (minuteMark_eq _ _ _ _) rfl

/-- Settles O12: the derivation of class and bound by engine state. -/
theorem classAndBoundDerived : Obligations.ClassAndBoundDerived := by
  intro order s h
  obtain ⟨u, hexec, hsite, hbound, hcls⟩ := update_derives s order h
  refine ⟨u, hexec, hsite, ?_⟩
  unfold deriveBound at hbound
  unfold deriveClass at hcls
  cases hengine : u.dlp.engine with
  | freerun m =>
    rw [hengine] at hbound hcls
    refine ⟨hbound, ?_⟩
    cases m <;> exact hcls
  | acquiring f =>
    rw [hengine] at hbound hcls
    exact ⟨hcls, by rw [hbound, ceiling_thousand]; rfl⟩
  | locked f =>
    rw [hengine] at hbound hcls
    cases f <;> exact ⟨hbound, hcls⟩
  | holdover m =>
    rw [hengine] at hbound hcls
    exact ⟨hbound, by rw [hcls, hbound]⟩

/-- Settles O26: either decision takes a step into ACQUIRING with e as 0. -/
theorem alignmentTakesTime : Obligations.AlignmentTakesTime := by
  refine ⟨fun order s m r x h hengine husable hpull => ?_, fun order s f r x h hengine husable hfirst hsteps => ?_⟩
  all_goals
    obtain ⟨hsite, -, hdlp, -⟩ := frame_site (found_frame s order)
    have hread := usable_read (atLoop order s) (gateOffset s) r x husable
    have htsu : (atLoop order s).spendEstimates.tsu = (atLoop order s).tsu := (RquFrame.spendEstimates (.refl _)).tsu
    rw [← hdlp] at hengine
  · have hdecision := align_stepped (atLoop order s).spendEstimates r x (by rw [State.pull, hsite, hdlp]; exact hpull)
    rw [← decideUpdate_align _ m r x _ _ hengine, ← hread] at hdecision
    obtain ⟨u, hexec, hstep, htraceable, hcls, hbound, hrecord⟩ :=
      update_steps s order h _ _ (alignmentStep x) r htsu rfl rfl (congrArg Decision.st hdecision)
    rw [hdlp] at hrecord
    exact ⟨u, hexec, hstep, htraceable.trans (Bool.or_true _), hcls, hbound, hrecord⟩
  · have hdecision := follow_steps (atLoop order s).spendEstimates s hsite hdlp f r x hfirst hsteps
    rw [← decideUpdate_follow _ f r x _ _ hengine, ← hread] at hdecision
    obtain ⟨u, hexec, hstep, htraceable, hcls, hbound, hrecord⟩ :=
      update_steps s order h _ _ ⟨false, 0, x.e⟩ r htsu rfl rfl (congrArg Decision.st hdecision)
    exact ⟨u, hexec, hstep, htraceable.trans (Bool.or_false _), hcls, hbound, hrecord⟩

/-- Settles O3: what each area holds after the reset is what the save in flight left of it. -/
theorem hardwareResetClears : Obligations.HardwareResetClears := by
  intro cause progress s
  refine ⟨rfl, fun hnone => ?_, fun v hsaving a => ?_⟩
  · unfold State.flashAtReset
    split
    · next v hsaving => exact absurd hsaving (hnone v)
    · rfl
  · have himage := imageIn_after s.flash v progress.done (begunOps progress) a
    have hflash : s.flashAtReset progress = s.flash.after v progress.done (begunOps progress) := by
      simp only [State.flashAtReset, hsaving]
    intro whole erased
    rw [hflash, himage]
    refine ⟨fun hwhole => if_pos hwhole, fun hwhole herased => ?_, fun hwhole herased => ?_⟩
    · exact (if_neg hwhole).trans (erasedBy_of_erase herased)
    · exact (if_neg hwhole).trans (erasedBy_of_no_erase herased)

/-- Settles O2: a command but the two named is taken only while the part runs. -/
theorem heldUntilReleased : Obligations.HeldUntilReleased := by
  refine ⟨fun c s hheld hreset hrelease => ?_, fun s => rfl⟩
  obtain ⟨f, hf⟩ := exec_whileRunning c hreset hrelease
  rw [hf, whileRunning_held s f hheld]

/-- Settles O6: each invariant at the reset value of the block it speaks of. -/
theorem resetSound : Obligations.ResetSound := by
  have htime : TimeRegular State.reset.tsu := by decide
  have hcodes : CodesInRange State.reset.sdc := by decide
  have hmodel : ModelSized State.reset := by decide
  have hsettings : SettingsInRange State.reset := by decide
  have hqueues : QueuesSound State.reset := fun k _ => port_reset k ▸ queueSound_reset
  have hepisode : EpisodeSound State.reset := ⟨rfl, by decide, fun hopen => (nomatch hopen)⟩
  exact ⟨htime, rfl, hqueues, hcodes, hmodel, selectionSound_reset, hepisode, hsettings⟩

end Sys2Proof.TimeScale
end

section
/-! SUPPORT. What a pulse input takes: the bytes of a companion record, the label of a pulse, and what handling a pulse leaves of its
input. -/

namespace Sys2Proof.Machine

open Sys2Proof Sys2Proof.Safety

@[simp] theorem perPulse_set_get {α : Type} (x : PerPulse α) (p : PulseIn) : x.set p (x.get p) = x := by cases p <;> rfl

/-! ## Companion records (R18) -/

/-- The pulse inputs after the bytes of a companion line are known: the one input is replaced. -/
theorem exec_companionRecord_of_receive (p : PulseIn) (bytes : List Byte) (s : State) (y : PulseInput) (h : s.running = true)
    (hy : bytes.foldl PulseInput.receive (s.rfe.pulses.get p) = y) :
    exec (.companionRecord p bytes) s = .next { s with rfe := { s.rfe with pulses := s.rfe.pulses.set p y } } := by
  rw [exec_companionRecord s h, ← hy]
  rfl

/-- A record that spells a companion makes it the pending one and keeps its receiver state and satellites. -/
theorem takeRecord_companion (y : PulseInput) (c : Companion) (hsats : c.sats < 64) (hlow : -32768 ≤ c.q) (hhigh : c.q ≤ 32767) :
    y.takeRecord (companionRecordBytes c) = { y with pending := some c, lastRx := some (c.rx, c.sats), receiving := [] } := by
  unfold PulseInput.takeRecord
  rw [(record_bytes c hsats hlow hhigh).1]
  rfl

/-- The receiver-state codes are 0 to 3 (R195). -/
theorem ofCode_eq_none (n : Nat) (h : 3 < n) : RxState.ofCode n = none := by
  unfold RxState.ofCode
  repeat rw [if_neg (by omega)]

/-- A record is invalid whose bytes do not sum to 0 or whose receiver state has no meaning. -/
theorem companionOf_eq_none (record : List Byte) (hlength : record.length = 12)
    (hbad : record.foldl (· + ·) 0 ≠ 0#8 ∨ 3 < (record.getD 7 0).toNat) : companionOf record = none := by
  have hfield : natOf (slice 7 1 record) = (record.getD 7 0).toNat := by
    have hdrop : record.drop 7 = record[7] :: record.drop 8 := List.drop_eq_getElem_cons (by omega)
    rw [slice, hdrop, List.take_succ_cons, List.take_zero, List.getD_eq_getElem _ _ (by omega)]
    exact Nat.zero_add _
  unfold companionOf
  rw [hfield]
  rcases hbad with hsum | hcode
  · have hzero : sumsToZero record = false := beq_false_of_ne hsum
    rw [hzero]
    split <;> rfl
  · rw [ofCode_eq_none _ hcode]

/-! ## The label of a pulse (R20) -/

theorem takeLabel_pending (y : PulseInput) (c : Companion) (h : y.pending = some c) :
    y.takeLabel = ({ y with pending := none, unlabelledRun := 0 }, some ⟨c.label, c.q, false, c.rx⟩) := by
  unfold PulseInput.takeLabel
  rw [h]

/-- One of the first two pulses without a companion takes the label after the last (R20). -/
theorem takeLabel_inferred (y : PulseInput) (b : Sec) (hpending : y.pending = none) (hlast : y.lastLabel = some b)
    (hrun : y.unlabelledRun ≤ 1) :
    y.takeLabel = ({ y with unlabelledRun := y.unlabelledRun + 1 }, some ⟨b + 1, 0, true, (y.lastRx.map (fun z => z.1)).getD .fix⟩) := by
  have hsucc : satSucc 3 y.unlabelledRun = y.unlabelledRun + 1 := by rw [satSucc_eq_min]; omega
  simp only [PulseInput.takeLabel, hpending, hlast, hsucc]
  rw [if_pos (by omega)]

/-- A pulse without a companion has no label where none was accepted before it, or from the third such pulse on (R20). -/
theorem takeLabel_none (y : PulseInput) (hpending : y.pending = none) (hnone : y.lastLabel = none ∨ 2 ≤ y.unlabelledRun) :
    y.takeLabel = ({ y with unlabelledRun := min 3 (y.unlabelledRun + 1) }, none) := by
  simp only [PulseInput.takeLabel, hpending, satSucc_eq_min]
  split
  · next b hlast =>
    have hrun : 2 ≤ y.unlabelledRun := hnone.resolve_left (by rw [hlast]; simp)
    rw [if_neg (by omega)]
  · rfl

/-- Taking a label leaves the pulse-seen flag and the estimates. -/
theorem takeLabel_keeps (y : PulseInput) : y.takeLabel.1.seen = y.seen ∧ y.takeLabel.1.lastTwo = y.lastTwo := by
  unfold PulseInput.takeLabel
  split
  · exact ⟨rfl, rfl⟩
  · dsimp only
    split <;> exact ⟨rfl, rfl⟩

/-! ## A pulse handled (R17, R19 to R25) -/

/-- A sample leaves a pulse input but for its last two estimates. -/
theorem SampleFrame.input {s u : State} (h : SampleFrame s u) (p : PulseIn) :
    u.rfe.pulses.get p = { s.rfe.pulses.get p with lastTwo := (u.rfe.pulses.get p).lastTwo } := by
  have hp := h.pulses p
  simp only [PulseInput.mk.injEq] at hp
  obtain ⟨hpending, hlabel, hrun, hseen, hprev, -, hrx, hreceiving⟩ := hp
  dsimp only
  rw [← hpending, ← hlabel, ← hrun, ← hseen, ← hprev, ← hrx, ← hreceiving]

theorem deliverPulse_inhibited (s : State) (p : PulseIn) (x : Sample) (h : (s.record (.phase (.pulse p))).state = .inhibited) :
    s.deliverPulse p x = s := if_pos h

theorem deliverPulse_taken (s : State) (p : PulseIn) (x : Sample) (h : (s.record (.phase (.pulse p))).state ≠ .inhibited) :
    s.deliverPulse p x = s.sample (.phase (.pulse p)) x := if_neg h

/-- The pulse input at an event: a pulse has ended the reception of a companion record (R18). -/
abbrev State.atPulse (s : State) (p : PulseIn) : PulseInput := { s.rfe.pulses.get p with receiving := [] }

theorem onPulse_onPulse (s : State) (p : PulseIn) (f g : PulseInput → PulseInput) :
    (s.onPulse p f).onPulse p g = s.onPulse p (fun y => g (f y)) := by
  simp [State.onPulse]

/-- The second and later pulses of a sample interval are EXTRA PULSE (R19). -/
theorem pulse_extra (s : State) (p : PulseIn) (h : (s.rfe.pulses.get p).seen = true) :
    s.pulse p = (s.onPulse p (fun _ => s.atPulse p)).deliverPulse p (.bad .extraPulse s.stamp) := by
  unfold State.pulse
  simp only [pulse_onPulse]
  exact if_pos h

/-- A first pulse that has no label is LABEL (R20). -/
theorem pulse_unlabelled (s : State) (p : PulseIn) (y : PulseInput) (h : (s.rfe.pulses.get p).seen = false)
    (hlabel : { s.atPulse p with seen := true }.takeLabel = (y, none)) :
    s.pulse p = (s.onPulse p (fun _ => y)).deliverPulse p (.bad .label s.stamp) := by
  have hlabel' : { ((s.rfe.pulses.get p).endReception) with seen := true }.takeLabel = (y, none) := hlabel
  have hseen : (s.rfe.pulses.get p).endReception.seen = false := h
  unfold State.pulse
  simp only [pulse_onPulse, onPulse_onPulse, hlabel', hseen, Bool.false_eq_true, if_false]
  rfl

/-- A first pulse with a label is measured (R20 to R23). -/
theorem pulse_labelled (s : State) (p : PulseIn) (y : PulseInput) (l : PulseLabel) (h : (s.rfe.pulses.get p).seen = false)
    (hlabel : { s.atPulse p with seen := true }.takeLabel = (y, some l)) :
    s.pulse p = (s.onPulse p (fun _ => y)).measurePulse p l := by
  have hlabel' : { ((s.rfe.pulses.get p).endReception) with seen := true }.takeLabel = (y, some l) := hlabel
  have hseen : (s.rfe.pulses.get p).endReception.seen = false := h
  unfold State.pulse
  simp only [pulse_onPulse, onPulse_onPulse, hlabel', hseen, Bool.false_eq_true, if_false]

/-- The label of the reading epoch, and the reading, of a stamp (R17). -/
theorem reading_atPhase (x : Tsu) (t : Nat) :
    Tsu.reading { x with phase := t } =
      (if 2 * (t / 250 * 250) ≤ x.interval then x.seconds else x.seconds + 1,
       if 2 * (t / 250 * 250) ≤ x.interval then ((t / 250 * 250 : Nat) : Int) else ((t / 250 * 250 : Nat) : Int) - x.interval) := by
  unfold Tsu.reading stampPhase
  dsimp only
  split <;> rfl

/-- A measured pulse is delivered, and joins the last two estimates (R23, R25). -/
def State.measured (s : State) (p : PulseIn) (l : PulseLabel) : State :=
  ((s.onPulse p (fun y => { y with lastLabel := some l.label })).deliverPulse p (.phase (s.pulseEstimate p l))).keepPulse p
    (s.pulseEstimate p l).e (s.pulseEstimate p l).time

/-- A pulse that passes the tests of its receiver and its label is measured (R21 to R23). -/
theorem measurePulse_measured (s : State) (p : PulseIn) (l : PulseLabel) (hrx : l.rx ≠ .noFix)
    (hlabel : s.tsu.traceable = true → l.label = s.tsu.reading.1) :
    s.measurePulse p l = s.measured p l := by
  unfold State.measurePulse
  rw [if_neg hrx, if_neg fun hbad => hbad.2 (hlabel hbad.1)]
  rfl

/-- A pulse of an INHIBITED record changes its label alone (R25). -/
theorem measurePulse_inhibited (s : State) (p : PulseIn) (l : PulseLabel) (h : (s.record (.phase (.pulse p))).state = .inhibited) :
    s.measurePulse p l = s ∨ s.measurePulse p l = s.onPulse p (fun y => { y with lastLabel := some l.label }) := by
  unfold State.measurePulse
  split
  · exact .inl (deliverPulse_inhibited _ _ _ h)
  · split
    · exact .inl (deliverPulse_inhibited _ _ _ h)
    · refine .inr ?_
      dsimp only
      rw [deliverPulse_inhibited]
      · exact if_pos (.inr h)
      · exact h

/-- A pulse of an INHIBITED record gives no sample: it changes its input alone, and no estimate of it (R25). -/
theorem pulse_inhibited (s : State) (p : PulseIn) (h : (s.record (.phase (.pulse p))).state = .inhibited) :
    ∃ y : PulseInput, s.pulse p = s.onPulse p (fun _ => y) ∧ y.seen = true ∧ y.lastTwo = (s.rfe.pulses.get p).lastTwo := by
  cases hseen : (s.rfe.pulses.get p).seen with
  | true => exact ⟨s.atPulse p, (pulse_extra s p hseen).trans (deliverPulse_inhibited _ _ _ h), hseen, rfl⟩
  | false =>
    obtain ⟨hseen', hlastTwo⟩ := takeLabel_keeps { s.atPulse p with seen := true }
    cases htook : { s.atPulse p with seen := true }.takeLabel with
    | mk y label =>
      rw [htook] at hseen' hlastTwo
      cases label with
      | none => exact ⟨y, (pulse_unlabelled s p y hseen htook).trans (deliverPulse_inhibited _ _ _ h), hseen', hlastTwo⟩
      | some l =>
        have hlabelled := pulse_labelled s p y l hseen htook
        rcases measurePulse_inhibited (s.onPulse p (fun _ => y)) p l h with hsame | hlabel
        · exact ⟨y, hlabelled.trans hsame, hseen', hlastTwo⟩
        · exact ⟨{ y with lastLabel := some l.label }, (hlabelled.trans hlabel).trans (onPulse_onPulse s p _ _), hseen', hlastTwo⟩

/-- Keeping an estimate changes the last two of the one input alone (R23). -/
theorem keepPulse_input (s : State) (p : PulseIn) (e : Int) (time : Time) :
    (s.keepPulse p e time).rfe.pulses.get p = { s.rfe.pulses.get p with
      lastTwo := if (s.record (.phase (.pulse p))).state = .faulted ∨ (s.record (.phase (.pulse p))).state = .inhibited
        then (s.rfe.pulses.get p).lastTwo else ((e, time) :: (s.rfe.pulses.get p).lastTwo).take 2 } := by
  unfold State.keepPulse
  dsimp only
  split
  · rfl
  · exact pulse_onPulse _ _ _

theorem keepPulse_rest (s : State) (p : PulseIn) (e : Int) (time : Time) : ∃ x, s.keepPulse p e time =
    { s with rfe := { s.rfe with pulses := x } } := by
  unfold State.keepPulse
  dsimp only
  split
  · exact ⟨_, rfl⟩
  · exact ⟨_, rfl⟩

/-- A pulse ends the reception of a companion record (R18). -/
theorem pulse_receiving (s : State) (p : PulseIn) : ((s.pulse p).rfe.pulses.get p).receiving = [] := by
  have hdeliver : ∀ (v : State) (x : Sample), (v.rfe.pulses.get p).receiving = [] →
      ((v.deliverPulse p x).rfe.pulses.get p).receiving = [] := fun v x hv => by
    rw [SampleFrame.input (.deliverPulse (.refl v)) p]
    exact hv
  have hmeasure : ∀ (v : State) (l : PulseLabel), (v.rfe.pulses.get p).receiving = [] →
      ((v.measurePulse p l).rfe.pulses.get p).receiving = [] := fun v l hv => by
    unfold State.measurePulse
    split
    · exact hdeliver _ _ hv
    · split
      · exact hdeliver _ _ hv
      · dsimp only
        rw [keepPulse_input]
        refine hdeliver _ _ ?_
        rw [pulse_onPulse]
        exact hv
  have hlabel : ∀ y : PulseInput, y.takeLabel.1.receiving = y.receiving := fun y => by
    unfold PulseInput.takeLabel
    split
    · rfl
    · dsimp only
      split <;> rfl
  unfold State.pulse
  dsimp only
  split
  · exact hdeliver _ _ (by rw [pulse_onPulse]; rfl)
  · split
    · exact hdeliver _ _ (by rw [pulse_onPulse, hlabel, pulse_onPulse]; rfl)
    · exact hmeasure _ _ (by rw [pulse_onPulse, hlabel, pulse_onPulse]; rfl)

/-- The record of a reference after a measured pulse is that after its sample. -/
theorem measured_record (s : State) (p : PulseIn) (l : PulseLabel) (r : Ref) (h : (s.record (.phase (.pulse p))).state ≠ .inhibited) :
    (s.measured p l).record r = ((s.onPulse p (fun y => { y with lastLabel := some l.label })).sample (.phase (.pulse p))
      (.phase (s.pulseEstimate p l))).record r := by
  obtain ⟨x, hkeep⟩ := keepPulse_rest ((s.onPulse p (fun y => { y with lastLabel := some l.label })).deliverPulse p
    (.phase (s.pulseEstimate p l))) p (s.pulseEstimate p l).e (s.pulseEstimate p l).time
  unfold State.measured
  rw [hkeep, ← deliverPulse_taken _ _ _ (by exact h)]
  rfl

/-- The estimate of a measured pulse is held, unless the store is LOADING (R40, R43). -/
theorem measured_held (s : State) (p : PulseIn) (l : PulseLabel) (h : (s.record (.phase (.pulse p))).state ≠ .inhibited)
    (hloaded : s.stc.store.isLoading = false) :
    ((s.measured p l).record (.phase (.pulse p))).held.map (fun h => h.estimate) = some (s.pulseEstimate p l) := by
  rw [measured_record s p l _ h]
  exact held_sample _ _ _ hloaded

/-- The input after a measured pulse has its label, and takes the estimate unless its record is FAULTED (R20, R23, R25). -/
theorem measured_input (s : State) (p : PulseIn) (l : PulseLabel) (h : (s.record (.phase (.pulse p))).state ≠ .inhibited) :
    ∃ lastTwo, (s.measured p l).rfe.pulses.get p = { s.rfe.pulses.get p with lastLabel := some l.label, lastTwo := lastTwo } ∧
      (((s.measured p l).record (.phase (.pulse p))).state ≠ .faulted →
        lastTwo = (((s.pulseEstimate p l).e, (s.pulseEstimate p l).time) :: (s.rfe.pulses.get p).lastTwo).take 2) ∧
      ((s.record (.phase (.pulse p))).state = .faulted → lastTwo = (s.rfe.pulses.get p).lastTwo) := by
  let v := s.onPulse p (fun y => { y with lastLabel := some l.label })
  let u := v.sample (.phase (.pulse p)) (.phase (s.pulseEstimate p l))
  have hrecord := measured_record s p l (.phase (.pulse p)) h
  have hv : v.rfe.pulses.get p = { s.rfe.pulses.get p with lastLabel := some l.label } := pulse_onPulse _ _ _
  have hu : u.rfe.pulses.get p = { s.rfe.pulses.get p with lastLabel := some l.label, lastTwo := (u.rfe.pulses.get p).lastTwo } := by
    rw [SampleFrame.input (SampleFrame.sample (.refl v)) p, hv]
  have hinput : (s.measured p l).rfe.pulses.get p = (u.keepPulse p (s.pulseEstimate p l).e (s.pulseEstimate p l).time).rfe.pulses.get p := by
    unfold State.measured
    rw [deliverPulse_taken _ _ _ (by exact h)]
  have hremembers : Remembers p (s.rfe.pulses.get p).lastTwo u := Remembers.sample _ _ ⟨h, .inr (by rw [hv])⟩
  refine ⟨((s.measured p l).rfe.pulses.get p).lastTwo, ?_, fun hok => ?_, fun hfaulted => ?_⟩
  · rw [hinput, keepPulse_input]
    rw [hu]
  · rw [hrecord] at hok
    have hkept := hremembers.2.resolve_left hok
    rw [hinput, keepPulse_input, if_neg (not_or.2 ⟨hok, hremembers.1⟩), hkept]
  · obtain ⟨hstays, hrfe⟩ := sample_faulted v (.pulse p) (s.pulseEstimate p l) hfaulted
    rw [hinput, keepPulse_input, if_pos (.inl hstays), hrfe, hv]

/-- A measured pulse leaves everything outside the Qualifier, the pulse inputs and the queues. -/
theorem measured_frame (s : State) (p : PulseIn) (l : PulseLabel) :
    RquFrame s (s.measured p l) ∧ (s.measured p l).rfe.windows = s.rfe.windows ∧ (s.measured p l).rfe.f1 = s.rfe.f1 := by
  let v := s.onPulse p (fun y => { y with lastLabel := some l.label })
  have hdeliver : SampleFrame v (v.deliverPulse p (.phase (s.pulseEstimate p l))) := .deliverPulse (.refl _)
  obtain ⟨x, hkeep⟩ := keepPulse_rest (v.deliverPulse p (.phase (s.pulseEstimate p l))) p (s.pulseEstimate p l).e (s.pulseEstimate p l).time
  refine ⟨.keepPulse (RquFrame.of_sample (.onPulse (.refl s)) hdeliver), ?_, ?_⟩
  · unfold State.measured
    rw [hkeep]
    exact hdeliver.windows
  · unfold State.measured
    rw [hkeep]
    exact hdeliver.f1

end Sys2Proof.Machine
end

section
/-! SUPPORT. What the close of an F1 gate measures, by the edges it holds. -/

namespace Sys2Proof.Machine

open Sys2Proof Sys2Proof.Safety

/-- The offset d at each of the three nominal periods: 100 ns, 488.28125 ns and 125,000,000 / 193 ps (R26, R27). -/
theorem measuredOffset_eq (r : SiteRecord) (g : F1Gate) :
    measuredOffset r.f1Period g =
      if r.val .f1Nominal = 0 then
        nearest (1000000000000 * (((g.latest : Int) - g.first) - g.cycles * 100000)) (g.cycles * 100000)
      else if r.val .f1Nominal = 1 then
        nearest (1000000000000 * (((g.latest : Int) - g.first) * 4 - g.cycles * 1953125)) (g.cycles * 1953125)
      else nearest (1000000000000 * (((g.latest : Int) - g.first) * 193 - g.cycles * 125000000)) (g.cycles * 125000000) := by
  unfold measuredOffset SiteRecord.f1Period
  split
  · simp only [mul_one]
  · split <;> rfl

/-- A gate without an edge (R27). -/
theorem closeGate_noEdge (s : State) (h : s.rfe.f1.gate = none) :
    s.closeGate = (if (s.record .f1).state = .observing ∨ (s.record .f1).state = .qualified then some (.bad .loss s.now) else none,
      ⟨none, none, false⟩) := by
  unfold State.closeGate
  simp only [h, counts_iff]

/-- A gate with one edge measures nothing (R27). -/
theorem closeGate_oneEdge (s : State) (g : F1Gate) (h : s.rfe.f1.gate = some g) (hcycles : g.cycles = 0) :
    s.closeGate = (some (.bad .range s.now), ⟨none, none, true⟩) := by
  unfold State.closeGate
  simp only [h, hcycles, if_true]

/-- An offset out of range is not kept (R27). -/
theorem closeGate_outOfRange (s : State) (g : F1Gate) (h : s.rfe.f1.gate = some g) (hcycles : 0 < g.cycles)
    (hrange : 10000000 < (measuredOffset s.site.f1Period g).natAbs) :
    s.closeGate = (some (.bad .range s.now), ⟨none, none, true⟩) := by
  unfold State.closeGate
  simp only [h, hcycles.ne', hrange, if_true, if_false]

/-- An offset in range is kept, and gated by its distance from the one before (R27). -/
theorem closeGate_measured (s : State) (g : F1Gate) (h : s.rfe.f1.gate = some g) (hcycles : 0 < g.cycles)
    (hrange : ¬10000000 < (measuredOffset s.site.f1Period g).natAbs) :
    s.closeGate =
      (some (if ∃ d0, s.rfe.f1.prevD = some d0 ∧ s.site.val .f1Gate < ((measuredOffset s.site.f1Period g - d0).natAbs : Int)
        then .bad .gate s.now else .offset (measuredOffset s.site.f1Period g) s.now),
       ⟨none, some (measuredOffset s.site.f1Period g), true⟩) := by
  unfold State.closeGate
  simp only [h, hcycles.ne', hrange, if_false]
  cases hprev : s.rfe.f1.prevD with
  | none => simp only [reduceCtorEq, false_and, exists_false, if_false]
  | some d0 =>
    simp only [Option.some.injEq, exists_eq_left']
    split <;> rfl

/-- The close of the gate at a loop update: the sample delivered, unless the record is INHIBITED, and the input it leaves (R27, R28). -/
theorem loopUpdate_closes (s : State) (order : List UpdatePart) (x : Option Sample) (y : F1Input)
    (h : (s.advanceTo (s.tsu.interval / 2)).closeGate = (x, y)) :
    (s.advanceTo (s.tsu.interval / 2)).gateSamples.f1 = (if (s.record .f1).state = .inhibited then none else x) ∧
      (s.update order).rfe.f1 = y := by
  rw [update_f1, h]
  refine ⟨?_, rfl⟩
  show (if _ then none else (s.advanceTo (s.tsu.interval / 2)).closeGate.1) = _
  rw [h]
  rfl

end Sys2Proof.Machine
end

section
/-! SUPPORT. What a window's estimate takes of its reports, and what a report, the close of a window and a stale expiry do to a window. -/

namespace Sys2Proof.Machine

open Sys2Proof Sys2Proof.Safety

/-! ## The reports taken (R36) -/

theorem takenReports_length (xs : List Report) : (takenReports xs).length = (xs.length + 3) / 4 := by
  have hlength := (byDelay_spec xs).1.length_eq
  rw [takenReports, List.length_take, hlength, quarter]
  omega

/-- The reports left out have delays no lower than those taken. -/
theorem takenReports_lowest (xs : List Report) : ∃ others : List Report, xs.Perm (List.append (takenReports xs) others) ∧
    ∀ a ∈ takenReports xs, ∀ b ∈ others, a.delay ≤ b.delay := by
  obtain ⟨hperm, hsorted, -⟩ := byDelay_spec xs
  have hsplit : takenReports xs ++ (byDelay xs).drop (quarter xs.length) = byDelay xs := List.take_append_drop _ _
  rw [Sorted, ← hsplit, List.pairwise_append] at hsorted
  obtain ⟨-, -, hbetween⟩ := hsorted
  exact ⟨_, (hsplit ▸ hperm).symm, hbetween⟩

/-- Of equal delays the earlier arrivals are taken. -/
theorem takenReports_earliest (xs : List Report) (d : Nat) :
    (takenReports xs).filter (fun x => x.delay == d) <+: xs.filter (fun x => x.delay == d) := by
  obtain ⟨-, -, hstable⟩ := byDelay_spec xs
  rw [← hstable d]
  exact (List.take_prefix _ _).filter _

/-- The greatest of the numbers of a list that is not empty is one of them. -/
theorem foldl_max_zero_mem (xs : List Nat) (h : xs ≠ []) : xs.foldl max 0 ∈ xs := by
  obtain ⟨hbound, -, hzero | hmem⟩ := foldl_max xs 0
  · obtain ⟨y, hy⟩ := List.exists_mem_of_ne_nil xs h
    have hle := hbound y hy
    rw [hzero] at hle ⊢
    rwa [← Nat.le_zero.1 hle]
  · exact hmem

/-- The grade of an estimate is the greatest of the reports taken. -/
theorem grade_of_taken (xs : List Report) (h : xs ≠ []) :
    (∀ y ∈ takenReports xs, y.grade ≤ ((takenReports xs).map (·.grade)).foldl max 0) ∧
      ∃ y ∈ takenReports xs, y.grade = ((takenReports xs).map (·.grade)).foldl max 0 := by
  have hne : (takenReports xs).map (·.grade) ≠ [] := by
    rw [← List.length_pos_iff, List.length_map, takenReports_length]
    have := List.length_pos_iff.2 h
    omega
  exact ⟨fun y hy => (foldl_max _ 0).1 _ (List.mem_map_of_mem hy), List.mem_map.1 (foldl_max_zero_mem _ hne)⟩

/-! ## Windows (R32, R34, R36) -/

theorem closeWindow_of_newest (s : State) (k : Port) (newest : Report) (h : (s.rfe.windows.get k).reports.getLast? = some newest) :
    s.closeWindow k = (s.emptyWindow k).sample (.phase (.packet k))
      (.phase (s.windowEstimate k (s.rfe.windows.get k).reports newest)) := by
  unfold State.closeWindow
  simp only [h]

/-- The window of a report just accepted (R32). -/
def State.windowAt (s : State) (k : Port) (reports : List Report) : Window :=
  { reports := reports, timer := some (s.stalePeriod k), lastAccepted := some s.now }

/-- A report joins its window, which closes at the threshold (R32, R36). -/
theorem appendReport_eq (s : State) (k : Port) (x : Report) :
    let all := List.append (s.rfe.windows.get k).reports [x]
    s.appendReport k x = if all.length = s.threshold k then (withWindow s k (s.windowAt k all)).closeWindow k
      else withWindow s k (s.windowAt k all) := by
  intro all
  have hwindow : (withWindow s k (s.windowAt k all)).rfe.windows.get k = s.windowAt k all := perPort_get_set_same _ _ _
  show (if ((withWindow s k (s.windowAt k all)).rfe.windows.get k).reports.length = s.threshold k then _ else _) = _
  rw [hwindow]
  rfl

/-- A report that brings its window to the threshold closes it: the estimate of its reports is delivered, and the window is empty (R36). -/
theorem closeWindow_windowAt (s : State) (k : Port) (reports : List Report) (x : Report) :
    (withWindow s k (s.windowAt k (List.append reports [x]))).closeWindow k =
      (withWindow s k (s.windowAt k [])).sample (.phase (.packet k)) (.phase (s.windowEstimate k (List.append reports [x]) x)) := by
  let v := withWindow s k (s.windowAt k (List.append reports [x]))
  have hwindow : v.rfe.windows.get k = s.windowAt k (List.append reports [x]) := perPort_get_set_same _ _ _
  have hempty : v.emptyWindow k = withWindow s k (s.windowAt k []) := by
    simp only [State.emptyWindow, State.onWindow, hwindow]
    simp only [v, withWindow, perPort_set_set]
    rfl
  have hnewest : (v.rfe.windows.get k).reports.getLast? = some x := by
    rw [hwindow]
    exact List.getLast?_concat
  rw [closeWindow_of_newest v k x hnewest, hempty, hwindow]
  rfl

/-- The reports that an accepted report joins: none where the master has changed (R30). -/
def State.reportsKept (s : State) (k : Port) (f : OffsetFields) : List Report :=
  if f.flags.getLsbD 0 then [] else (s.rfe.windows.get k).reports

/-- The flush by a master change, and the report appended (R30 to R32). -/
theorem takeReport_accepted (s : State) (k : Port) (before : PortState) (f : OffsetFields) (h : s.checkReport k before f = .ok) :
    let all := List.append (s.reportsKept k f) [s.reportOf f]
    (all.length ≠ s.threshold k → s.takeReport k before f = withWindow s k (s.windowAt k all)) ∧
    (all.length = s.threshold k → s.takeReport k before f = (withWindow s k (s.windowAt k [])).sample (.phase (.packet k))
      (.phase (s.windowEstimate k all (s.reportOf f)))) := by
  intro all
  let v := if OffsetFieldsMasterChanged f then s.flushWindow k else s
  have htake : s.takeReport k before f = v.appendReport k (s.reportOf f) := by
    unfold State.takeReport
    rw [if_pos h]
    show State.appendReport v k (v.reportOf f) = _
    unfold v
    split <;> rfl
  have hreports : (v.rfe.windows.get k).reports = s.reportsKept k f := by
    unfold v State.reportsKept OffsetFieldsMasterChanged
    split
    · rw [State.flushWindow, window_onWindow]
    · rfl
  have hwindow : ∀ reports, withWindow v k (v.windowAt k reports) = withWindow s k (s.windowAt k reports) := fun reports => by
    unfold v
    split
    · simp only [withWindow, State.flushWindow, State.onWindow, perPort_set_set]
      rfl
    · rfl
  have hthreshold : v.threshold k = s.threshold k := by unfold v; split <;> rfl
  have hestimate : v.windowEstimate k all (s.reportOf f) = s.windowEstimate k all (s.reportOf f) := by unfold v; split <;> rfl
  refine ⟨fun hopen => ?_, fun hclose => ?_⟩
  · rw [htake, appendReport_eq, hreports, hthreshold, if_neg hopen, hwindow]
  · rw [htake, appendReport_eq, hreports, hthreshold, if_pos hclose, closeWindow_windowAt, hwindow, hestimate]

/-- A stale expiry empties the window and delivers one sample (R34). -/
theorem staleExpiry_samples (s : State) (k : Port) : ∃ x, s.staleExpiry k = (s.emptyWindow k).sample (.phase (.packet k)) x := by
  unfold State.staleExpiry
  dsimp only
  split
  · next hfour =>
    have hne : (s.rfe.windows.get k).reports ≠ [] := List.ne_nil_of_length_pos (by omega)
    exact ⟨_, closeWindow_of_newest s k _ (List.getLast?_eq_some_getLast hne)⟩
  · exact ⟨_, rfl⟩

/-! ## The checks of a report (R29, R30) -/

/-- The result of a report's checks, with the duplicate test passed over where the master has changed. -/
theorem checkReport_eq (s : State) (k : Port) (before : PortState) (f : OffsetFields) :
    s.checkReport k before f =
      if 1000000000 ≤ f.masterNs.toNat ∨ f.grade.toNat = 0 ∨ 4 < f.grade.toNat then .malformed
      else if before = .suspect then .suspect
      else if (s.oc.get k).state ≠ .active then .quiet
      else if (s.record (.phase (.packet k))).state = .inhibited then .inhibited
      else if s.tsu.traceable = true ∧ 16 < secDiff s.tsu.seconds f.masterSec then .tooOld
      else if f.flags.getLsbD 0 = false ∧ ∃ x ∈ (s.rfe.windows.get k).reports, x.sequence = f.sequence.toNat then .duplicate
      else .ok := by
  have hquiet : ∀ x : ChannelState, (x.isQuiet = true) = (x ≠ .active) := fun x => by cases x <;> simp [ChannelState.isQuiet]
  have hduplicate : (s.rfe.windows.get k).reports.any (fun x => x.sequence == f.sequence.toNat) = true ↔
      ∃ x ∈ (s.rfe.windows.get k).reports, x.sequence = f.sequence.toNat := by simp
  unfold State.checkReport OffsetFieldsMasterChanged
  simp only [hquiet, hduplicate]
  cases f.flags.getLsbD 0 <;> simp

/-- A report that passes every check. -/
theorem checkReport_ok (s : State) (k : Port) (f : OffsetFields) (hns : f.masterNs.toNat < 1000000000) (hlow : 1 ≤ f.grade.toNat)
    (hhigh : f.grade.toNat ≤ 4) (hactive : (s.oc.get k).state = .active)
    (hrecord : (s.record (.phase (.packet k))).state ≠ .inhibited)
    (hage : s.tsu.traceable = true → secDiff s.tsu.seconds f.masterSec ≤ 16)
    (hsequence : f.flags.getLsbD 0 = true ∨ ∀ x ∈ (s.rfe.windows.get k).reports, x.sequence ≠ f.sequence.toNat) :
    s.checkReport k .normal f = .ok := by
  rw [checkReport_eq, if_neg (by omega), if_neg (by decide), if_neg (not_not.2 hactive), if_neg hrecord,
    if_neg (fun hold => absurd (hage hold.1) (by omega)), if_neg]
  rintro ⟨hsame, x, hx, hdup⟩
  rcases hsequence with hchanged | hfresh
  · rw [hchanged] at hsame
    cases hsame
  · exact hfresh x hx hdup

/-! ## Requests answered by their owners -/

/-- A request command on a ready port, once loading has ended: its owner answers it at the dispatch (R174). -/
theorem exec_command_answered (s : State) (k : Port) (t : Nat) (q : Request) (h : Ready s k t) (hloaded : s.stc.store.isLoading = false) :
    exec (command k t q) s = .next ((atDispatch s k t).answer k (s.tp.get k).note q) := by
  rw [exec_command s h.1.1, request_ready s k t q h, dispatch_loaded (atDispatch s k t) _ _ _ hloaded]

end Sys2Proof.Machine
end

section
/-! SUPPORT. What CHANNEL SET applies and answers. -/

namespace Sys2Proof.Machine

open Sys2Proof Sys2Proof.Safety

/-- The settings applied: each number at the nearer end of its range where it lies outside (R157, R158). -/
theorem clamped_eq (x : ChannelSettings) : x.clamped = { x with
    delay := max (-1000000) (min 1000000 x.delay)
    width := max 100 (min 500000000 x.width)
    limit := max 10 (min 4000000000 x.limit) } := by
  have hnat : ∀ lo hi n : Nat, lo ≤ hi → (clamp lo hi n).toNat = max lo (min hi n) := fun lo hi n h => by
    rw [clamp_eq_max_min _ _ _ (by omega)]
    omega
  have hwidth := hnat 100 500000000 x.width (by decide)
  have hlimit := hnat 10 4000000000 x.limit (by decide)
  have hdelay := clamp_eq_max_min (-1000000) 1000000 x.delay (by decide)
  unfold ChannelSettings.clamped
  rw [hdelay]
  simp only [← hwidth, ← hlimit]
  rfl

/-- The result OK or CLAMPED leads the response to CHANNEL SET (section 11.5). -/
theorem channelSetResponse_head (s : State) (k : Port) (ok : Prop) [Decidable ok] :
    (s.channelSetResponse k (if ok then .ok else .clamped)).head? = some (if ok then 0 else 1) := by
  unfold State.channelSetResponse
  split
  · rw [show u1 (ResultCode.code .ok) = [0] from u1_of_lt 0 (by decide)]
    rfl
  · rw [show u1 (ResultCode.code .clamped) = [1] from u1_of_lt 1 (by decide)]
    rfl

/-- A channel after new settings: the state by R161, the served marks where D changed (R162), and the end of the pulse in progress at an
entry to QUIET; without a pulse in progress a new polarity is in force at once (R159). -/
def Channel.withSettings (c : Channel) (x : ChannelSettings) (tsu : Tsu) : Channel :=
  let n := { c with settings := x }.evaluated tsu.traceable
  let moved : Bool := decide (x.delay ≠ c.settings.delay)
  let quieted : Bool := decide (c.state = .active ∧ n ≠ .active)
  { c with
    settings := x
    state := n
    openingServed := c.openingServed || (moved && decide (x.delay < 0 ∨ 1000 * x.delay < (tsu.phase : Int)))
    closingServed := c.closingServed || (moved && decide (x.delay < 0 ∧ (tsu.interval : Int) + 1000 * x.delay < tsu.phase))
    pulseEnd := if quieted then none else c.pulseEnd
    linePolarity := if quieted = true ∨ c.pulseEnd = none then x.polarity else c.linePolarity }

/-- The settings applied change the one channel, and flush its window where D changed or the channel entered QUIET (R159, R161). -/
theorem applyChannel_eq (s : State) (k : Port) (x : ChannelSettings) :
    let c := s.oc.get k
    let c' := c.withSettings x s.tsu
    s.applyChannel k x = { s with
      oc := s.oc.set k c'
      rfe := if decide (c'.settings.delay ≠ c.settings.delay) || quietedBy c c'
        then { s.rfe with windows := s.rfe.windows.set k (flushed s k) } else s.rfe } := applyChannel_spec s k x

/-- A response that finds room is the last frame of its queue. -/
theorem respond_last (s : State) (k : Port) (kind : Nat) (x : List Byte) (h : (s.tp.get k).places < 8) :
    ((s.respond k kind x).tp.get k).queue.getLast? = some { notice := none, kind := byte kind, payload := x } := by
  rw [respond_of_room s k kind x h, perPort_get_set_same]
  exact List.getLast?_concat

/-- A response joins the one queue. -/
theorem respond_other (s : State) (k j : Port) (kind : Nat) (x : List Byte) (h : j ≠ k) : (s.respond k kind x).tp.get j = s.tp.get j :=
  perPort_get_set_other _ _ _ _ h

end Sys2Proof.Machine
end

section
/-! SUPPORT. What the Qualifier's counts, trails, comparisons and expiries give, one equation for each case. -/

namespace Sys2Proof.Machine

open Sys2Proof Sys2Proof.Safety

/-! ## Counting (R47 to R50) -/

theorem countBad_idle (w : Work) (r : Ref) (c : Cause) (h : ¬((w.st.record r).state = .observing ∨ (w.st.record r).state = .qualified)) :
    w.countBad r c = w := if_neg fun hcounts => h ((counts_iff _).1 hcounts)

theorem countGood_idle (w : Work) (r : Ref) (h : ¬((w.st.record r).state = .observing ∨ (w.st.record r).state = .qualified)) :
    w.countGood r = w := if_neg fun hcounts => h ((counts_iff _).1 hcounts)

/-- A bad sample counted, before the fault limit is looked at (R47). -/
def Work.badCounted (w : Work) (r : Ref) : Work :=
  w.on (fun s => s.onRecord r (fun y => { y with goodRun := 0, faultCount := y.faultCount + 1 }))

theorem badCounted_record (w : Work) (r : Ref) :
    (w.badCounted r).st.record r = { w.st.record r with goodRun := 0, faultCount := (w.st.record r).faultCount + 1 } :=
  record_onRecord_same _ _ _

/-- A bad sample of a record that counts faults it at the fault limit (R50). -/
theorem countBad_eq (w : Work) (r : Ref) (c : Cause) (h : (w.st.record r).state = .observing ∨ (w.st.record r).state = .qualified) :
    w.countBad r c =
      if w.st.faultLimit r ≤ (w.st.record r).faultCount + 1 then (w.badCounted r).fault r c else w.badCounted r := by
  have hcount : ((w.badCounted r).st.record r).faultCount = (w.st.record r).faultCount + 1 := by rw [badCounted_record]
  rw [← hcount]
  exact if_pos ((counts_iff _).2 h)

/-- Entry to FAULTED: the counts, the trail's entry and the hold-off that it gives, and the last estimate kept (R50, R57). -/
theorem fault_fields (w : Work) (r : Ref) (c : Cause) :
    let y := w.st.record r
    let z := (w.fault r c).st.record r
    let trail := enterTrail w.st.tsu.seconds .faulted c y.trail
    z.state = .faulted ∧ z.faultCount = w.st.faultLimit r ∧ z.goodRun = 0 ∧ z.trail = trail ∧
      z.currentHoldOff = holdOffOf (w.st.site.nat .holdOffBase) trail ∧ z.holdOff = z.currentHoldOff ∧ z.history = [] ∧
      z.lastEstimate = y.lastEstimate := by
  have h := fault_record w r c
  simp only [RefRecord.plain, RefRecord.mk.injEq] at h
  obtain ⟨hstate, hcount, hrun, hhold, hcurrent, hlast, hhistory, -, -, htrail, -⟩ := h
  exact ⟨hstate, hcount, hrun, htrail, hcurrent, hhold.trans hcurrent.symm, hhistory, hlast⟩

/-- A bad sample counted faults the record or is one more (R47, R50). -/
theorem countBad_counts (w : Work) (r : Ref) (c : Cause) (h : (w.st.record r).state = .observing ∨ (w.st.record r).state = .qualified) :
    ((w.countBad r c).st.record r).state = .faulted ∨
      ((w.countBad r c).st.record r).faultCount = (w.st.record r).faultCount + 1 := by
  rw [countBad_eq w r c h]
  split
  · exact .inl (fault_fields _ r c).1
  · exact .inr (by rw [badCounted_record])

/-- A record's change is told by what it makes of the record. -/
theorem onRecord_congr (s : State) (r : Ref) (f g : RefRecord → RefRecord) (h : f (s.record r) = g (s.record r)) :
    s.onRecord r f = s.onRecord r g := by
  unfold State.onRecord
  rw [h]

theorem transition_st (w : Work) (r : Ref) (x : RefState) (c : Cause) : (w.transition r x c).st =
    w.st.onRecord r (fun y => { y with state := x, trail := enterTrail w.st.tsu.seconds x c y.trail }) := rfl

/-- A good sample counted, before the qualify length is looked at (R47). -/
def Work.goodCounted (w : Work) (r : Ref) : Work :=
  w.on (fun s => s.onRecord r (fun y => { y with faultCount := 0, goodRun := min 65535 (y.goodRun + 1) }))

theorem goodCounted_st (w : Work) (r : Ref) : (w.goodCounted r).st =
    w.st.onRecord r (fun y => { y with faultCount := 0, goodRun := min 65535 (y.goodRun + 1) }) := rfl

theorem goodCounted_record (w : Work) (r : Ref) : (w.goodCounted r).st.record r =
    { w.st.record r with faultCount := 0, goodRun := min 65535 ((w.st.record r).goodRun + 1) } := record_onRecord_same _ _ _

/-- A good sample of a record that counts: its run, and QUALIFIED where an OBSERVING record's run reaches the qualify length (R47, R49). -/
theorem countGood_st (w : Work) (r : Ref) (h : (w.st.record r).state = .observing ∨ (w.st.record r).state = .qualified) :
    let y := w.st.record r
    let run := min 65535 (y.goodRun + 1)
    let qualifies := y.state = .observing ∧ w.st.site.nat (.qualifyLength r.kind) ≤ run
    (w.countGood r).st = w.st.onRecord r (fun y => { y with
      faultCount := 0
      goodRun := run
      state := if qualifies then .qualified else y.state
      trail := if qualifies then enterTrail w.st.tsu.seconds .qualified .goodRun y.trail else y.trail }) := by
  intro y run qualifies
  have hcount : w.countGood r = if qualifies then (w.goodCounted r).transition r .qualified .goodRun else w.goodCounted r := by
    unfold Work.countGood
    simp only [satSucc_eq_min]
    rw [if_pos ((counts_iff _).2 h)]
    show (if ((w.goodCounted r).st.record r).state = .observing ∧ _ ≤ ((w.goodCounted r).st.record r).goodRun then _ else _) = _
    rw [goodCounted_record]
    rfl
  rw [hcount]
  by_cases hq : qualifies
  · simp only [hq, if_true]
    rw [transition_st, goodCounted_st, onRecord_onRecord]
    exact onRecord_congr _ _ _ _ rfl
  · simp only [hq, if_false]
    rw [goodCounted_st]
    exact onRecord_congr _ _ _ _ rfl

/-- The first sample of an ABSENT record (R48). -/
theorem firstSample_st (w : Work) (r : Ref) :
    (w.firstSample r).st = if (w.st.record r).state = .absent then
      w.st.onRecord r (fun y => { y with
        state := .observing, trail := enterTrail w.st.tsu.seconds .observing .firstSample y.trail }) else w.st := by
  unfold Work.firstSample
  split <;> rfl

/-! ## Trails (R56) -/

/-- A transition merges into the newest entry of its state. -/
theorem enterTrail_merged (now : Sec) (x : RefState) (c : Cause) (trail : List TrailEntry) (y : TrailEntry)
    (hy : trail.find? (fun z => z.state == x) = some y)
    (hmerges : y.cause = c ∧ 0 ≤ secDiff now y.last ∧ secDiff now y.last ≤ 3600) :
    enterTrail now x c trail =
      { y with last := now, repeats := min 255 (y.repeats + 1) } :: trail.eraseP (fun z => z.state == x) := by
  unfold enterTrail
  rw [hy, ← satSucc_eq_min]
  exact if_pos hmerges

/-- A transition that merges into no entry makes one of its own. -/
theorem enterTrail_fresh (now : Sec) (x : RefState) (c : Cause) (trail : List TrailEntry)
    (h : ∀ y, trail.find? (fun z => z.state == x) = some y →
      ¬(y.cause = c ∧ 0 ≤ secDiff now y.last ∧ secDiff now y.last ≤ 3600)) :
    enterTrail now x c trail = (⟨x, c, now, now, 1⟩ :: trail).take 8 := by
  unfold enterTrail
  cases hy : trail.find? (fun z => z.state == x) with
  | none => rfl
  | some y => exact if_neg (h y hy)

/-! ## Dispute flags (R61, R62) -/

/-- The dispute partner of a phase reference. -/
abbrev State.partnerOf (s : State) (c : PhaseRef) : Option PhaseRef := (s.record (.phase c)).partner

theorem partnerOf_unmark (w : Work) (a b : PhaseRef) :
    (w.unmark a b).st.partnerOf a = if w.st.partnerOf a = some b then none else w.st.partnerOf a := by
  rw [State.partnerOf, record_unmark]
  simp only [true_and]
  split <;> rfl

theorem partnerOf_unmark_other (w : Work) (a b c : PhaseRef) (h : c ≠ a) : (w.unmark a b).st.partnerOf c = w.st.partnerOf c := by
  rw [State.partnerOf, record_unmark, if_neg (by simp [h])]

theorem partnerOf_dispute (w : Work) (a b : PhaseRef) :
    (w.dispute a b).st.partnerOf a = if w.st.partnerOf a = none then some b else w.st.partnerOf a := by
  rw [State.partnerOf, record_dispute]
  simp only [true_and]
  split <;> rfl

theorem partnerOf_dispute_other (w : Work) (a b c : PhaseRef) (h : c ≠ a) : (w.dispute a b).st.partnerOf c = w.st.partnerOf c := by
  rw [State.partnerOf, record_dispute, if_neg (by simp [h])]

/-- The flags of both members cleared where they name each other. -/
theorem partnerOf_unmark_both (w : Work) (a b : PhaseRef) (h : a ≠ b) :
    ((w.unmark a b).unmark b a).st.partnerOf a = (if w.st.partnerOf a = some b then none else w.st.partnerOf a) ∧
    ((w.unmark a b).unmark b a).st.partnerOf b = (if w.st.partnerOf b = some a then none else w.st.partnerOf b) := by
  rw [partnerOf_unmark_other _ b a a h, partnerOf_unmark w a b, partnerOf_unmark _ b a, partnerOf_unmark_other w a b b h.symm]
  exact ⟨rfl, rfl⟩

/-- The member not selected is marked, and the selected one's flag is cleared where it names the other (R61). -/
theorem partnerOf_dispute_unmark (w : Work) (a b : PhaseRef) (h : a ≠ b) :
    ((w.dispute b a).unmark a b).st.partnerOf b = (if w.st.partnerOf b = none then some a else w.st.partnerOf b) ∧
    ((w.dispute b a).unmark a b).st.partnerOf a = (if w.st.partnerOf a = some b then none else w.st.partnerOf a) := by
  rw [partnerOf_unmark_other _ a b b h.symm, partnerOf_dispute w b a, partnerOf_unmark _ a b, partnerOf_dispute_other w b a a h]
  exact ⟨rfl, rfl⟩

/-- Both members are marked (R61). -/
theorem partnerOf_dispute_both (w : Work) (a b : PhaseRef) (h : a ≠ b) :
    ((w.dispute a b).dispute b a).st.partnerOf a = (if w.st.partnerOf a = none then some b else w.st.partnerOf a) ∧
    ((w.dispute a b).dispute b a).st.partnerOf b = (if w.st.partnerOf b = none then some a else w.st.partnerOf b) := by
  rw [partnerOf_dispute_other _ b a a h, partnerOf_dispute w a b, partnerOf_dispute _ b a, partnerOf_dispute_other w a b b h.symm]
  exact ⟨rfl, rfl⟩

theorem unmark_state_faultCount (w : Work) (a b : PhaseRef) (r : Ref) :
    ((w.unmark a b).st.record r).state = (w.st.record r).state ∧
      ((w.unmark a b).st.record r).faultCount = (w.st.record r).faultCount := by
  have h := unmark_plain w a b r
  simp only [RefRecord.plain, RefRecord.mk.injEq] at h
  obtain ⟨hstate, hcount, -⟩ := h
  exact ⟨hstate, hcount⟩

/-! ## Comparison (R58 to R62) -/

theorem disagreed_eq (p : PairEntry) : p.disagreed = { p with
    agreeRun := 0, disagreeRun := min 3 (p.disagreeRun + 1), inDispute := p.inDispute || decide (2 ≤ p.disagreeRun) } := by
  have hthree : (min 3 (p.disagreeRun + 1) == 3) = decide (2 ≤ p.disagreeRun) := by
    rw [Bool.eq_iff_iff, beq_iff_eq, decide_eq_true_eq]
    omega
  unfold PairEntry.disagreed
  simp only [satSucc_eq_min, hthree]

theorem agreed_eq (p : PairEntry) : p.agreed = { p with
    disagreeRun := 0, agreeRun := if p.inDispute then min 3 (p.agreeRun + 1) else p.agreeRun } := by
  unfold PairEntry.agreed
  simp only [satSucc_eq_min]

/-- A pair's runs moved by a comparison (R59). -/
def Work.compared (w : Work) (a b : PhaseRef) (ea eb : Int) : Work :=
  w.on (fun s => s.onPair a b (if w.st.disagree ea eb then .disagreed else .agreed))

/-- A comparison moves the pair's runs, and a pair in dispute leaves it or is resolved (R59 to R62). -/
theorem compareWith_eq (w : Work) (at_ : Sec) (a b : PhaseRef) (ea eb : Int) (hrecent : w.st.recent at_ b = some eb)
    (hcounts : (w.st.record (.phase a)).state = .observing ∨ (w.st.record (.phase a)).state = .qualified) :
    w.compareWith at_ a ea b =
      if ((w.compared a b ea eb).st.pair a b).inDispute then
        if ((w.compared a b ea eb).st.pair a b).agreeRun = 3 then (w.compared a b ea eb).clearPair a b
        else ((w.compared a b ea eb).on (fun s => s.showPersistence a b)).resolve at_ a b ea eb
      else w.compared a b ea eb := by
  unfold Work.compareWith
  rw [hrecent]
  exact if_pos ((counts_iff _).2 hcounts)

/-- A pair found is found after its change. -/
theorem find_onPair (s : State) (a b : PhaseRef) (f : PairEntry → PairEntry) (p : PairEntry)
    (hp : s.rqu.pairs.find? (fun q => q.joins a b) = some p) (hf : ∀ q : PairEntry, (f q).a = q.a ∧ (f q).b = q.b) :
    (s.onPair a b f).rqu.pairs.find? (fun q => q.joins a b) = some (f p) := by
  have hjoins : ((fun q : PairEntry => q.joins a b) ∘ fun q => if q.joins a b then f q else q) = fun q => q.joins a b := by
    funext q
    obtain ⟨ha, hb⟩ := hf q
    have hkept : (f q).joins a b = q.joins a b := by rw [PairEntry.joins, PairEntry.joins, ha, hb]
    by_cases hq : q.joins a b = true
    · simp only [Function.comp_apply, hq, if_true, hkept]
    · simp only [Function.comp_apply, hq, Bool.false_eq_true, if_false]
  have hfound : p.joins a b = true := List.find?_some (p := fun q : PairEntry => q.joins a b) hp
  show (s.rqu.pairs.map _).find? _ = _
  rw [List.find?_map, hjoins, hp, Option.map_some, if_pos hfound]

theorem pair_of_find (s : State) (a b : PhaseRef) (p : PairEntry) (h : s.rqu.pairs.find? (fun q => q.joins a b) = some p) :
    s.pair a b = p := by
  rw [State.pair, h, Option.getD_some]

/-- A pair's entry after a comparison moved its runs, with the limit as a proposition. -/
def PairEntry.afterComparison (p : PairEntry) (apart : Prop) [Decidable apart] : PairEntry :=
  if apart
  then { p with agreeRun := 0, disagreeRun := min 3 (p.disagreeRun + 1), inDispute := p.inDispute || decide (2 ≤ p.disagreeRun) }
  else { p with disagreeRun := 0, agreeRun := if p.inDispute then min 3 (p.agreeRun + 1) else p.agreeRun }

theorem compared_find (w : Work) (a b : PhaseRef) (ea eb : Int) (p : PairEntry)
    (h : w.st.rqu.pairs.find? (fun q => q.joins a b) = some p) :
    (w.compared a b ea eb).st.rqu.pairs.find? (fun q => q.joins a b) =
      some (p.afterComparison (1000 * w.st.site.val .disagreementLimit < ((ea - eb).natAbs : Int))) := by
  refine (find_onPair w.st a b _ p h fun q => by split <;> exact ⟨rfl, rfl⟩).trans (congrArg some ?_)
  unfold State.disagree PairEntry.afterComparison
  by_cases hapart : 1000 * w.st.site.val .disagreementLimit < ((ea - eb).natAbs : Int)
  · rw [if_pos hapart, decide_eq_true hapart, ← disagreed_eq]
    rfl
  · rw [if_neg hapart, decide_eq_false hapart, ← agreed_eq]
    rfl

/-- The entry of a pair that leaves dispute (R62). -/
theorem clearPair_pair (w : Work) (a b : PhaseRef) (p : PairEntry) (h : w.st.rqu.pairs.find? (fun q => q.joins a b) = some p) :
    (w.clearPair a b).st.pair a b = { p with disagreeRun := 0, agreeRun := 0, inDispute := false } := by
  have hpairs : (w.clearPair a b).st.rqu.pairs = (w.st.onPair a b PairEntry.cleared).rqu.pairs := clearPair_pairs w a b
  refine pair_of_find _ _ _ _ ?_
  rw [hpairs]
  exact find_onPair _ _ _ _ p h fun q => ⟨rfl, rfl⟩

/-! ## Votes (R60) -/

/-- The member that one candidate outvotes: the other than the one with which alone it agrees (R60). -/
def State.vote (s : State) (at_ : Sec) (a b : PhaseRef) (ea eb : Int) (c : PhaseRef) : Option PhaseRef :=
  if c = a ∨ c = b then none
  else match s.recent at_ c with
    | none => none
    | some ec =>
      match s.disagree ec ea, s.disagree ec eb with
      | false, true => some b
      | true, false => some a
      | _, _ => none

theorem outvoted_eq (s : State) (at_ : Sec) (a b : PhaseRef) (ea eb : Int) :
    s.outvoted at_ a b ea eb = phaseRefs.findSome? (s.vote at_ a b ea eb) := rfl

/-- Two phase errors are apart (R58). -/
abbrev State.apart (s : State) (x y : Int) : Prop := 1000 * s.site.val .disagreementLimit < ((x - y).natAbs : Int)

/-- The vote of a candidate with a recent estimate, by its agreement with each member (R60). -/
theorem vote_eq (s : State) (at_ : Sec) (a b : PhaseRef) (ea eb ec : Int) (c : PhaseRef) (hmember : ¬(c = a ∨ c = b))
    (hrecent : s.recent at_ c = some ec) :
    s.vote at_ a b ea eb c =
      if s.apart ec ea then (if s.apart ec eb then none else some a) else if s.apart ec eb then some b else none := by
  have hdisagree : ∀ e, s.disagree ec e = decide (s.apart ec e) := fun _ => rfl
  rw [State.vote, if_neg hmember, hrecent]
  simp only [hdisagree]
  by_cases hea : s.apart ec ea <;> by_cases heb : s.apart ec eb <;>
    simp only [decide_eq_true, decide_eq_false, hea, heb, if_true, if_false, not_false_eq_true]

/-- A candidate casts no vote that is a member, has no recent estimate, or agrees with both or neither (R60). -/
theorem vote_eq_none (s : State) (at_ : Sec) (a b : PhaseRef) (ea eb : Int) (c : PhaseRef) (h : s.vote at_ a b ea eb c = none) :
    c ≠ a → c ≠ b → ∀ ec, s.recent at_ c = some ec → (s.apart ec ea ↔ s.apart ec eb) := by
  intro ha hb ec hrecent
  rw [vote_eq s at_ a b ea eb ec c (not_or.2 ⟨ha, hb⟩) hrecent] at h
  split at h <;> split at h
  · next hea heb => exact iff_of_true hea heb
  · cases h
  · cases h
  · next hea heb => exact iff_of_false hea heb

/-- A vote is cast against the member with which the candidate does not agree (R60). -/
theorem vote_eq_some (s : State) (at_ : Sec) (a b : PhaseRef) (ea eb : Int) (c out : PhaseRef)
    (h : s.vote at_ a b ea eb c = some out) :
    c ≠ a ∧ c ≠ b ∧ ∃ ec, s.recent at_ c = some ec ∧
      ((¬s.apart ec ea ∧ s.apart ec eb ∧ out = b) ∨ (s.apart ec ea ∧ ¬s.apart ec eb ∧ out = a)) := by
  by_cases hmember : c = a ∨ c = b
  · rw [State.vote, if_pos hmember] at h
    cases h
  · obtain ⟨ha, hb⟩ := not_or.1 hmember
    cases hrecent : s.recent at_ c with
    | none =>
      rw [State.vote, if_neg hmember, hrecent] at h
      cases h
    | some ec =>
      rw [vote_eq s at_ a b ea eb ec c hmember hrecent] at h
      refine ⟨ha, hb, ec, rfl, ?_⟩
      split at h <;> split at h <;> cases h
      · next hea heb => exact .inr ⟨hea, heb, rfl⟩
      · next hea heb => exact .inl ⟨hea, heb, rfl⟩

theorem outvoted_eq_none (s : State) (at_ : Sec) (a b : PhaseRef) (ea eb : Int) (h : s.outvoted at_ a b ea eb = none) (c : PhaseRef)
    (hc : c ∈ phaseRefs) : s.vote at_ a b ea eb c = none := by
  rw [outvoted_eq] at h
  exact List.findSome?_eq_none_iff.1 h c hc

/-- The first vote in table order decides (R60). -/
theorem outvoted_eq_some (s : State) (at_ : Sec) (a b : PhaseRef) (ea eb : Int) (out : PhaseRef) (h : s.outvoted at_ a b ea eb = some out) :
    ∃ (before after : List PhaseRef) (c : PhaseRef), phaseRefs = List.append before (c :: after) ∧
      (∀ d ∈ before, s.vote at_ a b ea eb d = none) ∧ s.vote at_ a b ea eb c = some out := by
  rw [outvoted_eq] at h
  obtain ⟨before, c, after, hsplit, hvote, hnone⟩ := List.findSome?_eq_some_iff.1 h
  exact ⟨before, after, c, hsplit, hnone, hvote⟩

/-- The member outvoted is one of the two. -/
theorem outvoted_mem (s : State) (at_ : Sec) (a b : PhaseRef) (ea eb : Int) (out : PhaseRef) (h : s.outvoted at_ a b ea eb = some out) :
    out = a ∨ out = b := by
  obtain ⟨-, -, c, -, -, hvote⟩ := outvoted_eq_some s at_ a b ea eb out h
  obtain ⟨-, -, ec, -, ⟨-, -, hb⟩ | ⟨-, -, ha⟩⟩ := vote_eq_some s at_ a b ea eb c out hvote
  · exact .inr hb
  · exact .inl ha

/-! ## A pair in dispute resolved (R60, R61) -/

/-- A comparison resolved finds the records but for their persistence counts as they were before it, and the pair's entry moved. -/
def Work.shown (w : Work) (a b : PhaseRef) (ea eb : Int) : Work := (w.compared a b ea eb).on (fun s => s.showPersistence a b)

theorem shown_record (w : Work) (a b : PhaseRef) (ea eb : Int) (r : Ref) :
    ∃ n, (w.shown a b ea eb).st.record r = { w.st.record r with persistence := n } :=
  showPersistence_record (w.compared a b ea eb).st a b r

theorem shown_partnerOf (w : Work) (a b c : PhaseRef) (ea eb : Int) : (w.shown a b ea eb).st.partnerOf c = w.st.partnerOf c := by
  obtain ⟨n, h⟩ := shown_record w a b ea eb (.phase c)
  rw [State.partnerOf, h]

theorem shown_outvoted (w : Work) (at_ : Sec) (a b : PhaseRef) (ea eb : Int) :
    (w.shown a b ea eb).st.outvoted at_ a b ea eb = w.st.outvoted at_ a b ea eb := by
  refine outvoted_congr _ _ _ _ _ _ _ (fun c => ?_) rfl
  obtain ⟨n, h⟩ := shown_record w a b ea eb (.phase c)
  exact recent_congr _ _ _ _ (by rw [h]) (by rw [h])

/-- A phase reference whose estimate is recent counts samples (R58). -/
theorem counts_of_recent (s : State) (at_ : Sec) (b : PhaseRef) (e : Int) (h : s.recent at_ b = some e) :
    (s.record (.phase b)).state = .observing ∨ (s.record (.phase b)).state = .qualified := by
  unfold State.recent at h
  dsimp only at h
  split at h
  · cases h
  · split at h
    · next hcounts => exact (counts_iff _).1 hcounts.1
    · cases h

/-- The member outvoted takes a bad sample, and no flag of the pair names the other member (R60, R62). -/
theorem resolve_outvoted (w : Work) (at_ : Sec) (a b out : PhaseRef) (ea eb : Int) (hne : a ≠ b)
    (hout : w.st.outvoted at_ a b ea eb = some out)
    (hcounts : (w.st.record (.phase out)).state = .observing ∨ (w.st.record (.phase out)).state = .qualified) :
    let u := (w.resolve at_ a b ea eb).st
    u.partnerOf a ≠ some b ∧ u.partnerOf b ≠ some a ∧
      ((u.record (.phase out)).state = .faulted ∨
        (u.record (.phase out)).faultCount = (w.st.record (.phase out)).faultCount + 1) := by
  have hresolve : w.resolve at_ a b ea eb = ((w.countBad (.phase out) .disagree).unmark a b).unmark b a := by
    unfold Work.resolve
    rw [hout]
  intro u
  unfold u
  rw [hresolve]
  obtain ⟨hpartnerA, hpartnerB⟩ := partnerOf_unmark_both (w.countBad (.phase out) .disagree) a b hne
  obtain ⟨hstate, hcount⟩ := unmark_state_faultCount (w.countBad (.phase out) .disagree) a b (.phase out)
  obtain ⟨hstate', hcount'⟩ := unmark_state_faultCount ((w.countBad (.phase out) .disagree).unmark a b) b a (.phase out)
  refine ⟨?_, ?_, ?_⟩
  · rw [hpartnerA]
    split
    · simp
    · assumption
  · rw [hpartnerB]
    split
    · simp
    · assumption
  · rw [hstate', hcount', hstate, hcount]
    exact countBad_counts w _ _ hcounts

theorem resolve_marked (w : Work) (at_ : Sec) (a b : PhaseRef) (ea eb : Int) (h : w.st.outvoted at_ a b ea eb = none) :
    w.resolve at_ a b ea eb =
      if w.st.rqu.selected = some a then (w.dispute b a).unmark a b
      else if w.st.rqu.selected = some b then (w.dispute a b).unmark b a
      else (w.dispute a b).dispute b a := by
  unfold Work.resolve
  rw [h]

/-- Marking leaves the pair table. -/
theorem resolve_marked_pairs (w : Work) (at_ : Sec) (a b : PhaseRef) (ea eb : Int) (h : w.st.outvoted at_ a b ea eb = none) :
    (w.resolve at_ a b ea eb).st.rqu.pairs = w.st.rqu.pairs := by
  rw [resolve_marked w at_ a b ea eb h]
  split
  · rw [unmark_pairs, dispute_pairs]
  · split
    · rw [unmark_pairs, dispute_pairs]
    · rw [dispute_pairs, dispute_pairs]

/-- Without a vote the flags are marked by the selection (R61). -/
theorem resolve_marks (w : Work) (at_ : Sec) (a b : PhaseRef) (ea eb : Int) (hne : a ≠ b) (hnone : w.st.outvoted at_ a b ea eb = none) :
    let u := (w.resolve at_ a b ea eb).st
    let unmarked (c d : PhaseRef) := if w.st.partnerOf c = some d then none else w.st.partnerOf c
    let marked (c d : PhaseRef) := if w.st.partnerOf c = none then some d else w.st.partnerOf c
    (w.st.rqu.selected = some a → u.partnerOf b = marked b a ∧ u.partnerOf a = unmarked a b) ∧
    (w.st.rqu.selected = some b → u.partnerOf a = marked a b ∧ u.partnerOf b = unmarked b a) ∧
    (w.st.rqu.selected ≠ some a → w.st.rqu.selected ≠ some b → u.partnerOf a = marked a b ∧ u.partnerOf b = marked b a) := by
  intro u unmarked marked
  unfold u
  rw [resolve_marked w at_ a b ea eb hnone]
  refine ⟨fun ha => ?_, fun hb => ?_, fun ha hb => ?_⟩
  · rw [if_pos ha]
    exact partnerOf_dispute_unmark w a b hne
  · have ha : w.st.rqu.selected ≠ some a := fun ha => hne (Option.some.inj (ha.symm.trans hb))
    rw [if_neg ha, if_pos hb]
    exact partnerOf_dispute_unmark w b a hne.symm
  · rw [if_neg ha, if_neg hb]
    exact partnerOf_dispute_both w a b hne

/-! ## The expiry of a hold-off (R51) -/

theorem expire_window (s : State) (r : Ref) (k : Port) :
    (Work.expire ⟨s, []⟩ r).st.rfe.windows.get k = if r = .phase (.packet k) ∧ s.inputPresent r = false
      then { s.rfe.windows.get k with timer := none } else s.rfe.windows.get k := by
  rw [expire_rfe]
  cases s.inputPresent r with
  | true => simp
  | false =>
    cases r with
    | f1 => simp
    | phase r =>
      cases r with
      | pulse p => simp
      | packet j =>
        simp only [Bool.false_eq_true, if_false, perPort_get_set, Ref.phase.injEq, PhaseRef.packet.injEq, and_true, eq_comm (a := k)]
        split
        · next hk => rw [hk]
        · rfl

theorem expire_pulse (s : State) (r : Ref) (p : PulseIn) :
    (Work.expire ⟨s, []⟩ r).st.rfe.pulses.get p = if r = .phase (.pulse p) ∧ s.inputPresent r = false
      then { s.rfe.pulses.get p with lastTwo := [] } else s.rfe.pulses.get p := by
  rw [expire_rfe]
  cases s.inputPresent r with
  | true => simp
  | false =>
    cases r with
    | f1 => simp
    | phase r =>
      cases r with
      | packet k => simp
      | pulse q =>
        simp only [Bool.false_eq_true, if_false, perPulse_get_set, Ref.phase.injEq, PhaseRef.pulse.injEq, and_true, eq_comm (a := p)]
        split
        · next hp => rw [hp]
        · rfl

theorem expire_f1 (s : State) (r : Ref) : (Work.expire ⟨s, []⟩ r).st.rfe.f1 = s.rfe.f1 := by
  rw [expire_rfe]
  cases s.inputPresent r with
  | true => rfl
  | false =>
    cases r with
    | f1 => rfl
    | phase r => cases r <;> rfl

end Sys2Proof.Machine
end

section
/-! The statements about the reference inputs and their measurement, settled. -/

namespace Sys2Proof.ReferenceInputs

open Sys2Proof Sys2Proof.Machine Sys2Proof.Safety

/-- Settles O13: the bytes before the start byte are passed over, and the twelve from it on are a record. -/
theorem companionRecordTaken : Obligations.CompanionRecordTaken := by
  refine ⟨fun p c noise s h hsats hlow hhigh hnoise hidle => ?_, fun p record s h hidle hlength hstart hbad => ?_,
    fun p bytes s h hidle hlength hstart => ?_, fun p a b s => ?_, fun p t s h => ?_⟩
  · obtain ⟨-, hlength, hstart⟩ := record_bytes c hsats hlow hhigh
    refine exec_companionRecord_of_receive p _ s _ h ?_
    calc (List.append noise (companionRecordBytes c)).foldl PulseInput.receive (s.rfe.pulses.get p)
        = (companionRecordBytes c).foldl PulseInput.receive (noise.foldl PulseInput.receive (s.rfe.pulses.get p)) := List.foldl_append ..
      _ = (s.rfe.pulses.get p).takeRecord (companionRecordBytes c) := by
        rw [receive_noise noise _ hidle hnoise, receive_whole _ _ hidle hstart hlength]
      _ = _ := by rw [takeRecord_companion _ c hsats hlow hhigh, ← hidle]
  · have hdiscarded : record.foldl PulseInput.receive (s.rfe.pulses.get p) = s.rfe.pulses.get p := by
      rw [receive_whole _ _ hidle hstart hlength, PulseInput.takeRecord, companionOf_eq_none record hlength hbad,
        PulseInput.endReception, ← hidle]
    rw [exec_companionRecord_of_receive p record s _ h hdiscarded, perPulse_set_get]
  · exact exec_companionRecord_of_receive p bytes s _ h (receive_piece bytes _ hidle hstart hlength)
  · cases h : s.running with
    | false =>
      have hheld : ∀ bytes, exec (.companionRecord p bytes) s = .next s := fun bytes => by
        simp only [exec, execCompanionRecord]
        exact whileRunning_held s _ h
      exact ⟨s, hheld a, (hheld _).trans (hheld b).symm⟩
    | true =>
      refine ⟨_, exec_companionRecord s h p a, ?_⟩
      rw [exec_companionRecord s h, exec_companionRecord _ (by exact h), onPulse_onPulse]
      exact congrArg (fun f => Host.Outcome.next (s.onPulse p f)) (funext fun y => List.foldl_append ..)
  · exact ⟨_, exec_pulseArrival s h p t, pulse_receiving _ _⟩

/-- Settles O14: a pulse is extra, unlabelled or labelled, and a labelled one is rejected or measured. -/
theorem pulseMeasured : Obligations.PulseMeasured := by
  intro p t s htimely r y φ near reading x delivered
  have ⟨hrunning, hphase, hinterval⟩ := htimely
  have hexec : exec (.pulseArrival p t) s = .next ((atPhase s t).pulse p) := by
    rw [exec_pulseArrival s hrunning, advanceTo_timely s t hphase hinterval]
    rfl
  have hdeliver : ∀ (y' : PulseInput) (c : Cause), (s.record r).state ≠ .inhibited →
      .next ((withPulse s p t y').deliverPulse p (.bad c ⟨s.tsu.seconds, φ⟩)) = delivered y' c :=
    fun y' c htaken => congrArg Host.Outcome.next (deliverPulse_taken _ _ _ htaken)
  refine ⟨fun hinhibited => ?_, fun htaken hseen => ?_, fun htaken hseen hpending hnone => ?_, fun l y' htaken hseen hsource => ?_⟩
  · obtain ⟨y', hpulse, hseen, hlastTwo⟩ := pulse_inhibited (atPhase s t) p hinhibited
    exact ⟨y', hexec.trans (congrArg Host.Outcome.next hpulse), hseen, hlastTwo⟩
  · rw [hexec, ← hdeliver y _ htaken]
    exact congrArg Host.Outcome.next (pulse_extra (atPhase s t) p hseen)
  · rw [hexec, ← hdeliver _ _ htaken]
    exact congrArg Host.Outcome.next (pulse_unlabelled (atPhase s t) p _ hseen (takeLabel_none _ hpending hnone))
  · have htook : { y with seen := true }.takeLabel = (y', some l) := by
      rcases hsource with ⟨c, hpending, rfl, rfl⟩ | ⟨b, hpending, hlast, hrun, rfl, rfl⟩
      · exact takeLabel_pending _ c hpending
      · exact takeLabel_inferred _ b hpending hlast hrun
    have hkept : y'.lastTwo = y.lastTwo ∧ y'.seen = true ∧ y'.pending = none := by
      rcases hsource with ⟨c, -, -, rfl⟩ | ⟨b, hpending, -, -, -, rfl⟩
      · exact ⟨rfl, rfl, rfl⟩
      · exact ⟨rfl, rfl, hpending⟩
    obtain ⟨hlastTwo, hseen', hpending'⟩ := hkept
    have hreading : (withPulse s p t y').tsu.reading = (reading, x) := reading_atPhase s.tsu t
    have hinput : (withPulse s p t y').rfe.pulses.get p = y' := perPulse_get_set_same _ _ _
    have hmeasure : (atPhase s t).pulse p = (withPulse s p t y').measurePulse p l := pulse_labelled (atPhase s t) p y' l hseen htook
    refine ⟨fun hrx => ?_, fun hrx htraceable hlabel => ?_, fun hrx hlabel => ?_⟩
    · rw [hexec, hmeasure, ← hdeliver y' _ htaken]
      exact congrArg Host.Outcome.next (if_pos hrx)
    · rw [hexec, hmeasure, ← hdeliver y' _ htaken]
      refine congrArg Host.Outcome.next ((if_neg hrx).trans (if_pos ⟨htraceable, ?_⟩))
      rw [hreading]
      exact hlabel
    · let v := withPulse s p t y'
      have hestimate : v.pulseEstimate p l =
          { e := s.site.val (.cableDelay p) + l.q - x, time := ⟨s.tsu.seconds, φ⟩, toSec := l.label, fromSec := reading
            coarse := l.coarse, degraded := decide (l.rx = .degraded), before := y.lastTwo.map (fun z => z.1), window := none } := by
        unfold State.pulseEstimate
        rw [hreading, hinput, hlastTwo]
        rfl
      obtain ⟨lastTwo, hafter, hjoined, hfaulted⟩ := measured_input v p l htaken
      obtain ⟨hframe, hwindows, hf1⟩ := measured_frame v p l
      rw [hinput] at hafter
      rw [hestimate, hinput, hlastTwo] at hjoined
      rw [hinput, hlastTwo] at hfaulted
      refine ⟨v.measured p l, ?_, fun hloaded => ?_, ?_⟩
      · rw [hexec, hmeasure, measurePulse_measured _ p l hrx (by rw [hreading]; exact hlabel)]
      · rw [measured_held v p l htaken hloaded, hestimate]
      · rw [hafter]
        exact ⟨hjoined, hfaulted, rfl, hpending', rfl, hseen', hframe.tsu, hwindows, hf1, hframe.dlp, hframe.hop, hframe.lrn, hframe.sdc,
          hframe.oc, hframe.sst, hframe.stc, hframe.flash⟩

/-- Settles O15: the gate that closes holds no edge, one edge, or a whole number of cycles. -/
theorem f1EdgeStamped : Obligations.F1EdgeStamped := by
  refine ⟨fun t s htimely => ?_, fun order s h => ?_⟩
  · obtain ⟨hrunning, hphase, hinterval⟩ := htimely
    rw [exec_f1Edge s hrunning, advanceTo_timely s t hphase hinterval]
    cases hgate : s.rfe.f1.gate <;> simp only [F1Input.edge, hgate] <;> rfl
  · refine ⟨_, exec_loopUpdate s h order, ?_⟩
    intro v closed
    refine ⟨fun hnone => loopUpdate_closes s order _ _ (closeGate_noEdge v hnone),
      fun g hsome => ⟨fun hcycles => ?_, fun hcycles => ?_⟩⟩
    · exact loopUpdate_closes s order _ _ (closeGate_oneEdge v g hsome hcycles)
    · intro time cycles d
      have hd : measuredOffset v.site.f1Period g = d := measuredOffset_eq s.site g
      split
      · next hrange => exact loopUpdate_closes s order _ _ (closeGate_outOfRange v g hsome hcycles (hd ▸ hrange))
      · next hrange =>
        refine loopUpdate_closes s order _ _ ((closeGate_measured v g hsome hcycles (hd ▸ hrange)).trans ?_)
        rw [hd]
        rfl

/-- Settles O16: the reports in the order of their delays are a permutation, sorted and stable, of which the first quarter is taken. -/
theorem lowestDelaysTaken : Obligations.LowestDelaysTaken := by
  refine ⟨fun xs => ⟨takenReports_length xs, takenReports_lowest xs, takenReports_earliest xs⟩, fun s k xs newest hne => ?_⟩
  intro took x
  obtain ⟨hbound, hattained⟩ := grade_of_taken xs hne
  have hlength : took.length = (xs.length + 3) / 4 := takenReports_length xs
  refine ⟨?_, rfl, rfl, rfl, rfl, rfl, _, ?_, hbound, hattained⟩
  · rw [← hlength, List.sum_eq_foldl]
    rfl
  · rw [← hlength]
    rfl

/-- Settles O17: the report passes its checks, and the window it joins stays open or reaches the threshold. -/
theorem reportAppended : Obligations.ReportAppended := by
  intro k t f s hready hloaded hns hlow hhigh hnormal hactive hrecord hage hsequence w kept report window all
  have hok : (atDispatch s k t).checkReport k (s.tp.get k).state f = .ok :=
    hnormal ▸ checkReport_ok (atDispatch s k t) k f hns hlow hhigh hactive hrecord hage hsequence
  have hexec : exec (.offsetReport k t f) s = .next (((atDispatch s k t).takeReport k (s.tp.get k).state f).respond k 0x06
      (List.append (u1 0) (u1 (((atDispatch s k t).takeReport k (s.tp.get k).state f).rfe.windows.get k).reports.length))) := by
    refine (exec_command_answered s k t (.offsetReport f) hready hloaded).trans (congrArg Host.Outcome.next ?_)
    show answerOffsetReport k (s.tp.get k).state f (atDispatch s k t) = _
    unfold answerOffsetReport
    rw [hok]
    rfl
  obtain ⟨hopen, hclose⟩ := takeReport_accepted (atDispatch s k t) k _ f hok
  refine ⟨fun hbelow hlength => ?_, fun hat => ?_⟩
  · have htake : (atDispatch s k t).takeReport k (s.tp.get k).state f = withWindow (atDispatch s k t) k (window all) := hopen hbelow
    have hcount : ((withWindow (atDispatch s k t) k (window all)).rfe.windows.get k).reports = all :=
      congrArg Window.reports (perPort_get_set_same _ _ _)
    rw [hexec, htake, hcount, u1_of_lt 0 (by decide), u1_of_lt all.length hlength, ← respond_atDispatch s k t _ _ hready]
    rfl
  · have htake : (atDispatch s k t).takeReport k (s.tp.get k).state f = (withWindow (atDispatch s k t) k (window [])).sample
        (.phase (.packet k)) (.phase ((atPhase s t).windowEstimate k all report)) := hclose hat
    have hcount : ((withWindow (atDispatch s k t) k (window [])).sample (.phase (.packet k))
        (.phase ((atPhase s t).windowEstimate k all report))).rfe.windows.get k = window [] := by
      rw [(SampleFrame.sample (.refl _)).windows]
      exact perPort_get_set_same _ _ _
    have hzero : u1 (window []).reports.length = [0] := u1_of_lt 0 (by decide)
    rw [hexec, htake, hcount, hzero, u1_of_lt 0 (by decide)]
    rfl

/-- Settles O18: a report that a check refuses is answered at the dispatch, and its window stays. -/
theorem reportRefused : Obligations.ReportRefused := by
  intro k t f s hready hloaded r hr hrefused
  have hcheck : (atDispatch s k t).checkReport k (s.tp.get k).state f = r := (checkReport_eq _ _ _ _).trans hr.symm
  have htake : (atDispatch s k t).takeReport k (s.tp.get k).state f = atDispatch s k t := if_neg (hcheck ▸ hrefused)
  refine (exec_command_answered s k t (.offsetReport f) hready hloaded).trans (congrArg Host.Outcome.next ?_)
  show answerOffsetReport k (s.tp.get k).state f (atDispatch s k t) = _
  rw [answerOffsetReport, hcheck, htake, respond_atDispatch s k t _ _ hready]
  rfl

/-- Settles O19: the sample that the expiry delivers, by the reports the window holds. -/
theorem staleExpiryRestarts : Obligations.StaleExpiryRestarts := by
  intro k s h hdue w w' delivered
  have hexec : exec (.staleTimerExpiry k) s = .next (s.staleExpiry k) := by
    rw [exec_staleTimerExpiry s h, if_pos hdue]
  refine ⟨fun hfour newest hnewest => ?_, fun hone hthree => ?_, fun hnone => ?_, ?_⟩
  · rw [hexec, State.staleExpiry, if_pos hfour, closeWindow_of_newest s k newest hnewest]
    rfl
  · have hthin : ¬4 ≤ w.reports.length := by omega
    have hsome : w.reports.length ≠ 0 := by omega
    rw [hexec, State.staleExpiry, if_neg hthin, if_neg hsome]
    rfl
  · have hzero : w.reports.length = 0 := by rw [hnone]; rfl
    have hfew : ¬4 ≤ w.reports.length := by omega
    rw [hexec, State.staleExpiry, if_neg hfew, if_pos hzero]
    rfl
  · obtain ⟨x, hx⟩ := staleExpiry_samples s k
    have hframe : SampleFrame (withWindow s k w') (s.staleExpiry k) := hx ▸ .sample (.refl _)
    exact ⟨_, hexec, hframe.windows, hframe.f1, hframe.tsu, hframe.dlp, hframe.hop, hframe.lrn, hframe.sdc, hframe.oc, hframe.sst,
      hframe.stc, hframe.flash⟩

/-- Settles O40: the settings are applied to the one channel, and the response joins the port's queue behind them. -/
theorem channelSetApplied : Obligations.ChannelSetApplied := by
  intro k t f s hready hloaded
  have hexec := exec_command_answered s k t (.channelSet f) hready hloaded
  refine ⟨fun hnone => ?_, fun x hsome => ?_⟩
  · refine hexec.trans (congrArg Host.Outcome.next ?_)
    show answerChannelSet k f (atDispatch s k t) = _
    unfold answerChannelSet
    rw [hnone]
    exact (respond_atDispatch s k t _ _ hready).trans (congrArg (answered s k t 0x0E) (u1_of_lt 2 (by decide)))
  · let v := atDispatch s k t
    let w := v.applyChannel k x.clamped
    let u := w.respond k 0x0E (w.channelSetResponse k (if x.clamped = x then .ok else .clamped))
    have hanswer : exec (.channelSet k t f) s = .next u := by
      refine hexec.trans (congrArg Host.Outcome.next ?_)
      show answerChannelSet k f v = _
      unfold answerChannelSet
      rw [hsome]
    have happlied := applyChannel_eq v k x.clamped
    have hchannel : u.oc.get k = (s.oc.get k).withSettings x.clamped v.tsu :=
      (congrArg (fun z : State => z.oc.get k) happlied).trans (perPort_get_set_same _ _ _)
    have hports : w.tp = v.tp := (congrArg (fun z : State => z.tp) happlied).trans rfl
    have hroom : (w.tp.get k).places < 8 := by
      rw [hports]
      exact (congrArg TenantPort.places (perPort_get_set_same _ _ _)).trans_lt (collected_places _ hready.2.2)
    have hother : ∀ j ∈ ports, j ≠ k → u.oc.get j = s.oc.get j ∧ u.tp.get j = s.tp.get j := fun j _ hj =>
      ⟨(congrArg (fun z : State => z.oc.get j) happlied).trans (perPort_get_set_other _ _ _ _ hj),
       (respond_other w k j _ _ hj).trans ((congrArg (fun z => z.get j) hports).trans (perPort_get_set_other _ _ _ _ hj))⟩
    refine ⟨u, hanswer, ?_, ?_, ⟨?_, ?_⟩, ?_, hother, ⟨_, respond_last w k _ _ hroom, rfl, ?_⟩, ?_⟩
    · rw [hchannel]
      exact clamped_eq x
    · rw [hchannel]
      rfl
    · rw [hchannel]
      rfl
    · rw [hchannel]
      exact (congrArg (fun z : State => z.rfe) happlied).trans rfl
    · rw [hchannel]
      rfl
    · rw [hchannel]
      exact channelSetResponse_head w k _
    · show w.tsu = _ ∧ w.rqu = _ ∧ w.dlp = _ ∧ w.lrn = _ ∧ w.hop = _ ∧ w.sdc = _ ∧ w.sst = _ ∧ w.stc = _ ∧ w.flash = _
      unfold w
      rw [happlied]
      exact ⟨rfl, rfl, rfl, rfl, rfl, rfl, rfl, rfl, rfl⟩

/-- Settles O20: each clause by what the operation it speaks of gives; a pair in dispute by the votes of the third references. -/
theorem countdownsExpire : Obligations.CountdownsExpire := by
  refine ⟨fun r s h hfaulted hzero => ?_, fun s h => ?_, fun w r c => ?_, fun now x c trail => ?_, ?_⟩
  · have hframe : RquFrame s ((Work.expire ⟨s, []⟩ r).finish .other) := .finish (.expire (.refl s))
    have hfront : SampleFrame (Work.expire ⟨s, []⟩ r).st ((Work.expire ⟨s, []⟩ r).finish .other) := .finish (.refl _)
    obtain ⟨hcount, hchanges⟩ := expire_counts s r
    refine ⟨_, (exec_holdOffExpiry s h r).trans (congrArg Host.Outcome.next (if_pos ⟨hfaulted, hzero⟩)), ?_, fun r' _ hr' => ?_, ?_,
      hframe.tsu, hframe.dlp, hframe.hop, hframe.lrn, hframe.sdc, hframe.ssq, hframe.oc, hframe.sst, hframe.stc, hframe.flash⟩
    · intro present y left cause
      have hpresent : present = s.inputPresent r := by
        cases r with
        | f1 => rfl
        | phase r => cases r <;> rfl
      unfold left cause
      rw [hpresent]
      refine ⟨?_, fun k _ => ?_, fun p => ?_, ?_⟩
      · rw [finish_record, record_expire, if_pos rfl]
      · rw [hfront.windows, expire_window]
      · rw [finish_pulses, expire_pulse]
      · rw [hfront.f1, expire_f1]
    · rw [finish_record, record_expire, if_neg hr']
    · rw [finish_changed _ _ hchanges, hcount]
  · rw [exec_settlingExpiry s h]
    split
    · rfl
    · rfl
  · intro y now counts limit bad good
    refine ⟨fun hidle => ⟨countBad_idle w r c hidle, countGood_idle w r hidle⟩, fun hcounts hbelow => ?_, fun hcounts hlimit => ?_,
      fun hcounts => countGood_st w r hcounts, firstSample_st w r⟩
    · have hbad : bad = w.badCounted r := (countBad_eq w r c hcounts).trans (if_neg (by exact Nat.not_le.2 hbelow))
      rw [hbad]
      rfl
    · have hbad : bad = (w.badCounted r).fault r c := (countBad_eq w r c hcounts).trans (if_pos hlimit)
      intro z
      obtain ⟨hstate, hcount, hrun, htrail, hcurrent, hhold, hhistory, hlast⟩ := fault_fields (w.badCounted r) r c
      rw [badCounted_record] at htrail hcurrent hlast
      unfold z
      rw [hbad]
      refine ⟨hstate, hcount, hrun, htrail, fun e he => ?_, hhold, hhistory, hlast, fun a ha q hq => ?_⟩
      · rw [htrail] at he
        rw [hcurrent, holdOffOf_enterTrail _ _ _ _ e he]
        rfl
      · subst ha
        exact fault_pairs _ a c q hq
  · exact ⟨fun y hy hmerges => enterTrail_merged now x c trail y hy hmerges, fun hnone => enterTrail_fresh now x c trail hnone⟩
  · intro w at_ a b ea eb p hne hrecent hcounts hfind u partner unmarked marked apart p'
    have hfound : (w.compared a b ea eb).st.rqu.pairs.find? (fun q => q.joins a b) = some p' := compared_find w a b ea eb p hfind
    have hpair := pair_of_find _ a b p' hfound
    have hu : u = (if p'.inDispute then if p'.agreeRun = 3 then (w.compared a b ea eb).clearPair a b
        else (w.shown a b ea eb).resolve at_ a b ea eb else w.compared a b ea eb).st := by
      rw [← hpair]
      exact congrArg Work.st (compareWith_eq w at_ a b ea eb hrecent hcounts)
    have hvotes := shown_outvoted w at_ a b ea eb
    have hpartner := fun c => shown_partnerOf w a b c ea eb
    refine ⟨fun hpeace => ?_, fun hdispute hthree => ?_, fun hdispute hrun => ⟨fun out hout => ?_, fun hnone => ?_⟩, ?_⟩
    · rw [hu, hpeace]
      exact ⟨hpair, fun r _ => rfl⟩
    · rw [hu, hdispute, hthree]
      exact ⟨clearPair_pair _ a b p' hfound, partnerOf_unmark_both _ a b hne⟩
    · rw [hu, hdispute, if_pos rfl, if_neg hrun]
      obtain ⟨n, hrecord⟩ := shown_record w a b ea eb (.phase out)
      have hmember : (w.st.record (.phase out)).state = .observing ∨ (w.st.record (.phase out)).state = .qualified := by
        rcases outvoted_mem w.st at_ a b ea eb out hout with rfl | rfl
        · exact hcounts
        · exact counts_of_recent w.st at_ out eb hrecent
      have hresolved := resolve_outvoted (w.shown a b ea eb) at_ a b out ea eb hne (hvotes.trans hout) (by rw [hrecord]; exact hmember)
      rw [hrecord] at hresolved
      exact hresolved
    · have hnone' := hvotes.trans hnone
      rw [hu, hdispute, if_pos rfl, if_neg hrun]
      have hmarks := resolve_marks (w.shown a b ea eb) at_ a b ea eb hne hnone'
      simp only [hpartner] at hmarks
      refine ⟨pair_of_find _ a b p' ?_, hmarks⟩
      rw [resolve_marked_pairs _ _ _ _ _ _ hnone']
      exact hfound
    · intro undecided
      split
      · next hnone => exact fun c hc => vote_eq_none w.st at_ a b ea eb c (outvoted_eq_none w.st at_ a b ea eb hnone c hc)
      · next out hout =>
        obtain ⟨before, after, c, hsplit, hbefore, hvote⟩ := outvoted_eq_some w.st at_ a b ea eb out hout
        obtain ⟨ha, hb, ec, hec, hagrees⟩ := vote_eq_some w.st at_ a b ea eb c out hvote
        exact ⟨before, after, c, ec, hsplit, fun d hd => vote_eq_none w.st at_ a b ea eb d (hbefore d hd), ha, hb, hec, hagrees⟩

end Sys2Proof.ReferenceInputs
end

section
/-! SUPPORT. What the inputs' events do: they change the front end and hand samples to the Qualifier, and nothing else. -/

namespace Sys2Proof.Machine

open Sys2Proof Sys2Proof.Safety

/-- What an event of the inputs can do: the front end changes, and samples are taken (R40). -/
inductive SamplesTaken (s : State) : State → Prop
  | refl : SamplesTaken s s
  | rfe {u : State} (x : Rfe) (h : SamplesTaken s u) : SamplesTaken s { u with rfe := x }
  | sample {u : State} (r : Ref) (x : Sample) (h : SamplesTaken s u) : SamplesTaken s (u.sample r x)

section

variable {s u : State}

theorem SamplesTaken.closeWindow {k : Port} (h : SamplesTaken s u) : SamplesTaken s (u.closeWindow k) := by
  unfold State.closeWindow
  dsimp only
  split
  · exact h.rfe _
  · exact .sample _ _ (h.rfe _)

theorem SamplesTaken.takeReport {k : Port} {b : PortState} {f : OffsetFields} (h : SamplesTaken s u) :
    SamplesTaken s (u.takeReport k b f) := by
  have happend : ∀ (v : State) (x : Report), SamplesTaken s v → SamplesTaken s (v.appendReport k x) := fun v x g => by
    unfold State.appendReport
    dsimp only
    split
    · exact .closeWindow (g.rfe _)
    · exact g.rfe _
  unfold State.takeReport
  split
  · dsimp only
    split
    · exact happend _ _ (h.rfe _)
    · exact happend _ _ h
  · exact h

theorem SamplesTaken.staleExpiry {k : Port} (h : SamplesTaken s u) : SamplesTaken s (u.staleExpiry k) := by
  obtain ⟨x, hx⟩ := staleExpiry_samples u k
  exact hx ▸ .sample _ x (h.rfe _)

theorem SamplesTaken.thresholdChanged {k : Port} (h : SamplesTaken s u) : SamplesTaken s (u.thresholdChanged k) := by
  unfold State.thresholdChanged
  dsimp only
  split
  · exact h.closeWindow
  · exact h

theorem SamplesTaken.deliverPulse {p : PulseIn} {x : Sample} (h : SamplesTaken s u) : SamplesTaken s (u.deliverPulse p x) := by
  unfold State.deliverPulse
  dsimp only
  split
  · exact h
  · exact h.sample _ _

theorem SamplesTaken.measurePulse {p : PulseIn} {l : PulseLabel} (h : SamplesTaken s u) : SamplesTaken s (u.measurePulse p l) := by
  have hkeep : ∀ (v : State) (e : Int) (t : Time), SamplesTaken s v → SamplesTaken s (v.keepPulse p e t) := fun v e t g => by
    unfold State.keepPulse
    dsimp only
    split
    · exact g
    · exact g.rfe _
  unfold State.measurePulse
  split
  · exact h.deliverPulse
  · split
    · exact h.deliverPulse
    · exact hkeep _ _ _ (.deliverPulse (h.rfe _))

/-- A pulse handled (R19). -/
theorem SamplesTaken.pulse {p : PulseIn} (h : SamplesTaken s u) : SamplesTaken s (u.pulse p) := by
  unfold State.pulse
  dsimp only
  split
  · exact .deliverPulse (h.rfe _)
  · split
    · exact .deliverPulse (.rfe _ (h.rfe _))
    · exact .measurePulse (.rfe _ (h.rfe _))

theorem SamplesTaken.closeGates (h : SamplesTaken s u) : SamplesTaken s u.closeGates := .rfe _ (.rfe _ (h.rfe _))

/-- The parts of a loop update other than the loop's own take samples (R24, R27). -/
theorem SamplesTaken.updateParts {g : GateSamples} {parts : List UpdatePart} (h : SamplesTaken s u) (hparts : .loop ∉ parts) :
    SamplesTaken s (parts.foldl (State.updatePart g) u) := by
  have hdeliver : ∀ (v : State) (r : Ref) (x : Option Sample), SamplesTaken s v → SamplesTaken s (v.deliver r x) := fun v r x g => by
    cases x with
    | none => exact g
    | some x => exact g.sample r x
  induction parts generalizing u with
  | nil => exact h
  | cons p parts ih =>
    obtain ⟨hp, hrest⟩ := not_or.1 (mt List.mem_cons.2 hparts)
    refine ih ?_ hrest
    cases p with
    | loop => exact absurd rfl hp
    | sampleP1 => exact hdeliver _ _ _ h
    | sampleP2 => exact hdeliver _ _ _ h
    | sampleF1 => exact hdeliver _ _ _ h

end

/-- A loop update takes samples, then the loop's own part, then samples (R71). -/
theorem update_samplesTaken (s : State) (order : List UpdatePart) : ∃ (v : State) (d : Option Int),
    SamplesTaken (s.advanceTo (s.tsu.interval / 2)) v ∧ SamplesTaken (v.loopPart d) (s.update order) := by
  obtain ⟨before, after, hparts, hbefore, hafter⟩ := partOrder_split order
  let a := s.advanceTo (s.tsu.interval / 2)
  let v := before.foldl (State.updatePart a.gateSamples) a.closeGates
  refine ⟨v, a.gateSamples.offset, (SamplesTaken.closeGates .refl).updateParts hbefore, ?_⟩
  have hupdate : s.update order = (partOrder order).foldl (State.updatePart a.gateSamples) a.closeGates := rfl
  have hsplit : (List.append before (.loop :: after)).foldl (State.updatePart a.gateSamples) a.closeGates =
      after.foldl (State.updatePart a.gateSamples) (v.updatePart a.gateSamples .loop) := List.foldl_append ..
  rw [hupdate, hparts, hsplit]
  exact SamplesTaken.refl.updateParts hafter

end Sys2Proof.Machine
end

section
/-! SUPPORT. The site settings record: each value has a place of its own, which a change of it replaces (R184). -/

namespace Sys2Proof.Machine

open Sys2Proof Sys2Proof.Safety

theorem mem_phaseKinds (k : PhaseKind) : k ∈ phaseKinds := by cases k <;> decide

theorem mem_kinds (k : Kind) : k ∈ kinds := by cases k <;> decide

theorem mem_alarmChannels (c : AlarmChannel) : c ∈ alarmChannels := by cases c <;> decide

/-- The record holds every value (R184). -/
theorem mem_settings (x : Setting) : x ∈ Setting.all := by
  cases x with
  | cableDelay p => cases p <;> simp [Setting.all]
  | _ => simp [Setting.all, mem_phaseRefs, mem_refs, mem_ports, mem_phaseKinds, mem_kinds, mem_alarmChannels]

theorem slot_lt (x : Setting) : x.slot < Setting.all.length :=
  List.findIdx_lt_length_of_exists ⟨x, mem_settings x, beq_self_eq_true x⟩

theorem getElem_slot (x : Setting) : Setting.all[x.slot]'(slot_lt x) = x :=
  eq_of_beq (List.findIdx_getElem (p := fun y => y == x) (w := slot_lt x))

theorem slot_injective {x y : Setting} (h : x.slot = y.slot) : x = y := by
  have hx := getElem_slot x
  simp only [h, getElem_slot y] at hx
  exact hx.symm

theorem val_put_same (r : SiteRecord) (x : Setting) (v : Int) (h : r.values.length = 78) : (r.put x v).val x = v := by
  have hslot : x.slot < r.values.length := h ▸ slot_lt x
  simp [SiteRecord.put, SiteRecord.val, hslot]

theorem val_put_other (r : SiteRecord) (x y : Setting) (v : Int) (h : y ≠ x) : (r.put x v).val y = r.val y := by
  have hslot : x.slot ≠ y.slot := fun he => h (slot_injective he.symm)
  simp [SiteRecord.put, SiteRecord.val, List.getElem?_set_ne hslot]

/-- A value put where it stands changes nothing. -/
theorem put_val (r : SiteRecord) (x : Setting) : r.put x (r.val x) = r := by
  by_cases hslot : x.slot < r.values.length
  · simp [SiteRecord.put, SiteRecord.val, hslot]
  · simp [SiteRecord.put, List.set_eq_of_length_le (Nat.not_lt.1 hslot)]

end Sys2Proof.Machine
end

section
/-! SUPPORT. The selection (section 3.6): what an evaluation selects is eligible, and what leaves the selected reference as it was. -/

namespace Sys2Proof.Machine

open Sys2Proof Sys2Proof.Safety

/-! ## Evaluation (R63 to R65) -/

/-- A fold of the better choice ends at an eligible reference where it began at one. -/
theorem foldl_better_eligible (s : State) (xs : List PhaseRef) (best : Option PhaseRef) (hbest : ∀ q, best = some q → s.eligible q = true)
    (q : PhaseRef) (hq : xs.foldl s.better best = some q) : s.eligible q = true := by
  induction xs generalizing best with
  | nil => exact hbest q hq
  | cons r rs ih =>
    refine ih (s.better best r) (fun q hq => ?_) hq
    unfold State.better at hq
    split at hq
    · next hr =>
      split at hq
      · next => cases hq; exact hr
      · next b =>
        split at hq
        · cases hq; exact hr
        · exact hbest q hq
    · exact hbest q hq

theorem firstEligible_eligible (s : State) (r : PhaseRef) (h : s.firstEligible = some r) : s.eligible r = true :=
  foldl_better_eligible s phaseRefs none (fun _ hq => nomatch hq) r h

/-- The outcome of an evaluation is eligible (R63, R64). -/
theorem choose_eligible (s : State) (r : PhaseRef) (h : s.choose = some r) : s.eligible r = true := by
  unfold State.choose at h
  split at h
  · exact firstEligible_eligible s r h
  · split at h
    · split at h
      · next q _ hq => cases h; exact hq
      · exact firstEligible_eligible s r h
    · exact firstEligible_eligible s r h

theorem evaluate_selected (s : State) (t : Trigger) : (s.evaluate t).rqu.selected = s.choose := by
  unfold State.evaluate
  dsimp only
  split
  · next h => exact h.symm
  · rfl

theorem evaluate_record (s : State) (t : Trigger) (r : Ref) : (s.evaluate t).record r = s.record r := by
  unfold State.evaluate
  dsimp only
  split <;> rfl

/-- The end of an event of the Qualifier selects what an evaluation of the work chooses (R65). -/
theorem finish_selected (w : Work) (t : Trigger) : (w.finish t).rqu.selected = w.st.choose := by
  rw [← evaluate_selected w.st t]
  unfold Work.finish
  dsimp only
  split <;> rfl

/-! ## What a selection rests on -/

/-- What the selection rests on is as before: the records' states and partners, the priorities, and whether the store is LOADING. -/
structure SelectionFrame (s u : State) : Prop where
  selected : u.rqu.selected = s.rqu.selected
  state : ∀ r, (u.record r).state = (s.record r).state
  partner : ∀ r, (u.record r).partner = (s.record r).partner
  priority : ∀ r, u.site.val (.priority r) = s.site.val (.priority r)
  loading : u.stc.store.isLoading = s.stc.store.isLoading

theorem SelectionFrame.trans {s u v : State} (h : SelectionFrame s u) (g : SelectionFrame u v) : SelectionFrame s v :=
  ⟨g.selected.trans h.selected, fun r => (g.state r).trans (h.state r), fun r => (g.partner r).trans (h.partner r),
   fun r => (g.priority r).trans (h.priority r), g.loading.trans h.loading⟩

/-- What leaves the Qualifier, the settings and the store state leaves all that the selection rests on. -/
theorem SelectionFrame.of_eq {s u : State} (hrqu : u.rqu = s.rqu) (hsite : u.site = s.site)
    (hloading : u.stc.store.isLoading = s.stc.store.isLoading) : SelectionFrame s u := by
  have hrecord : ∀ r, u.record r = s.record r := fun r => by rw [State.record, hrqu]; rfl
  exact ⟨by rw [hrqu], fun r => by rw [hrecord], fun r => by rw [hrecord], fun r => by rw [hsite], hloading⟩

theorem SelectionFrame.refl (s : State) : SelectionFrame s s := .of_eq rfl rfl rfl

theorem SelectionFrame.onRecord (s : State) (q : Ref) (f : RefRecord → RefRecord) (hstate : ∀ y, (f y).state = y.state)
    (hpartner : ∀ y, (f y).partner = y.partner) : SelectionFrame s (s.onRecord q f) := by
  refine ⟨rfl, fun r => ?_, fun r => ?_, fun _ => rfl, rfl⟩
  · rw [record_onRecord]
    split
    · next h => rw [hstate, h]
    · rfl
  · rw [record_onRecord]
    split
    · next h => rw [hpartner, h]
    · rfl

/-- A fold whose every step leaves what the selection rests on leaves it. -/
theorem SelectionFrame.foldl {α : Type} {f : State → α → State} (step : ∀ v a, SelectionFrame v (f v a)) (xs : List α) (s : State) :
    SelectionFrame s (xs.foldl f s) := by
  induction xs generalizing s with
  | nil => exact .refl s
  | cons x xs ih => exact (step s x).trans (ih (f s x))

theorem eligible_congr {s u : State} (r : PhaseRef) (hstate : (u.record (.phase r)).state = (s.record (.phase r)).state)
    (hpartner : (u.record (.phase r)).partner = (s.record (.phase r)).partner)
    (hpriority : u.site.val (.priority r) = s.site.val (.priority r)) :
    u.eligible r = s.eligible r := by
  simp only [State.eligible, hstate, hpartner, hpriority]

/-- An eligible reference's record is QUALIFIED (R63). -/
theorem qualified_of_eligible (s : State) (r : PhaseRef) (h : s.eligible r = true) : (s.record (.phase r)).state = .qualified := by
  simp only [State.eligible, Bool.and_eq_true, beq_iff_eq] at h
  exact h.1.1

/-! ## Soundness of the selection (R43, R63) -/

theorem selectionSound_of_frame {s u : State} (h : SelectionSound s) (g : SelectionFrame s u) : SelectionSound u := by
  obtain ⟨hselected, hloading⟩ := h
  refine ⟨fun r hr hu => ?_, fun hu => ?_⟩
  · rw [eligible_congr r (g.state _) (g.partner _) (g.priority r)]
    exact hselected r hr (g.selected.symm.trans hu)
  · obtain ⟨hnone, habsent⟩ := hloading (g.loading.symm.trans hu)
    exact ⟨g.selected.trans hnone, fun r hr => (g.state r).trans (habsent r hr)⟩

/-- While the store is LOADING nothing is selected, so the settings may change (R43, R193). -/
theorem selectionSound_of_loading {s u : State} (h : SelectionSound s) (hloading : s.stc.store.isLoading = true) (hrqu : u.rqu = s.rqu) :
    SelectionSound u := by
  obtain ⟨hnone, habsent⟩ := h.2 hloading
  refine ⟨fun r _ hu => ?_, fun _ => ⟨by rw [hrqu, hnone], fun r hr => ?_⟩⟩
  · rw [hrqu, hnone] at hu
    cases hu
  · rw [State.record, hrqu]
    exact habsent r hr

/-- Once loading has ended the selection is sound where what is selected was chosen by an evaluation. -/
theorem selectionSound_of_choose {s u : State} (hloaded : u.stc.store.isLoading = false) (hselected : u.rqu.selected = s.choose)
    (hrecord : ∀ r, u.record r = s.record r) (hsite : u.site = s.site) : SelectionSound u := by
  refine ⟨fun r _ hu => ?_, fun hu => ?_⟩
  · rw [eligible_congr (s := s) r (by rw [hrecord]) (by rw [hrecord]) (by rw [hsite])]
    exact choose_eligible s r (hselected.symm.trans hu)
  · rw [hloaded] at hu
    cases hu

/-- An event of the Qualifier ends with a sound selection. -/
theorem finish_selectionSound (w : Work) (t : Trigger) (hloaded : w.st.stc.store.isLoading = false) : SelectionSound (w.finish t) := by
  have hframe : SampleFrame w.st (w.finish t) := .finish (.refl _)
  exact selectionSound_of_choose (by rw [hframe.stc, hloaded]) (finish_selected w t) (finish_record w t) (congrArg Sst.record hframe.sst)

theorem sample_selectionSound {s : State} (h : SelectionSound s) (r : Ref) (x : Sample) : SelectionSound (s.sample r x) := by
  unfold State.sample
  split
  · exact h
  · next hloaded =>
    refine finish_selectionSound _ _ ?_
    rw [(SampleFrame.take (.refl s)).stc]
    exact Bool.eq_false_iff.2 hloaded

/-- The inputs' events keep the selection sound. -/
theorem SamplesTaken.selectionSound {s u : State} (g : SamplesTaken s u) (h : SelectionSound s) : SelectionSound u := by
  induction g with
  | refl => exact h
  | rfe x _ ih => exact selectionSound_of_frame ih (.of_eq rfl rfl rfl)
  | sample r x _ ih => exact sample_selectionSound ih r x

/-- Hardware reset leaves every record ABSENT and none selected (R42). -/
theorem resetWith_selectionSound (cause : StartCause) (flash : Flash) (pending : List Instr) :
    SelectionSound (State.resetWith cause flash pending) :=
  selectionSound_of_loading (s := State.reset) selectionSound_reset rfl rfl

/-! ## Commands -/

theorem reportHealth_selectionFrame (s before : State) : SelectionFrame s (s.reportHealth before) := by
  obtain ⟨t, h⟩ := reportHealth_keeps s before
  rw [h]
  exact .of_eq rfl rfl rfl

/-- An epoch counts hold-offs and the autosave count, and leaves what the selection rests on (R5). -/
theorem raiseEpoch_selectionFrame (s : State) : SelectionFrame s s.raiseEpoch := by
  obtain ⟨tp, h⟩ := raiseEpoch_eq s
  have hrecord : ∀ y : RefRecord, y.epoch.state = y.state ∧ y.epoch.partner = y.partner := fun y => by
    unfold RefRecord.epoch
    split <;> exact ⟨rfl, rfl⟩
  rw [h]
  refine ⟨rfl, fun r => ?_, fun r => ?_, fun _ => rfl, ?_⟩
  · exact (congrArg RefRecord.state (record_countEpoch s s.tsu.interval r)).trans (hrecord _).1
  · exact (congrArg RefRecord.partner (record_countEpoch s s.tsu.interval r)).trans (hrecord _).2
  · show (s.stc.epoch s.dlp.engine).store.isLoading = _
    rw [stcEpoch_eq]

/-- The loop's own part of an update spends the held estimates and leaves what the selection rests on (R72). -/
theorem loopPart_selectionFrame (s : State) (d : Option Int) : SelectionFrame s (s.loopPart d) := by
  have hspent : SelectionFrame s s.spendEstimates :=
    .foldl (fun v r => .onRecord v (.phase r) RefRecord.spend (fun _ => rfl) (fun _ => rfl)) _ _
  obtain ⟨-, hdecided⟩ := decideUpdate_keeps s.spendEstimates (s.readLoop d)
  obtain ⟨l, c, w, t, hhandOn⟩ := handOn_keeps (s.spendEstimates.decideUpdate (s.readLoop d)) s (s.readLoop d)
  refine hspent.trans ?_
  rw [State.loopPart, hhandOn, hdecided]
  exact .of_eq rfl rfl rfl

theorem update_selectionSound {s : State} (h : SelectionSound s) (order : List UpdatePart) : SelectionSound (s.update order) := by
  obtain ⟨v, d, hbefore, hafter⟩ := update_samplesTaken s order
  have hfound : SelectionSound v := hbefore.selectionSound (selectionSound_of_frame h (.of_eq rfl rfl rfl))
  exact hafter.selectionSound (selectionSound_of_frame hfound (loopPart_selectionFrame v d))

/-! ## The end of loading (R43) -/

/-- One record INHIBITED at the end of loading, where its inhibit setting is on (R43). -/
def State.inhibitOne (u : State) (r : Ref) : State :=
  if u.inhibited r then (u.onRecord r (fun y => { y with state := .inhibited })).inhibitEffects r else u

/-- The part with the records inhibited at the end of loading, before the selection is evaluated (R43). -/
def State.inhibitAll (s : State) : State := refs.foldl State.inhibitOne s

theorem inhibitOne_frame (u : State) (r : Ref) : RquFrame u (u.inhibitOne r) := by
  unfold State.inhibitOne
  split
  · exact .inhibitEffects (.of_sample (.refl u) (.onRecord (.refl _)))
  · exact .refl u

theorem inhibitAll_frame (s : State) : RquFrame s s.inhibitAll :=
  RquFrame.foldl (fun v r g => g.trans (inhibitOne_frame v r)) refs s (.refl s)

theorem countChange_record (s : State) (r : Ref) : s.countChange.record r = s.record r := rfl

theorem countChange_selected (s : State) : s.countChange.rqu.selected = s.rqu.selected := rfl

/-- The end of loading inhibits records, evaluates the selection, and may raise the change count (R43, R67). -/
theorem inhibitAtStart_cases (s : State) :
    s.inhibitAtStart = (s.inhibitAll.evaluate .other).countChange ∨ s.inhibitAtStart = s.inhibitAll.evaluate .other := by
  have hall : s.inhibitAll = refs.foldl (fun u r =>
    if u.inhibited r then (u.onRecord r (fun y => { y with state := .inhibited })).inhibitEffects r else u) s := rfl
  unfold State.inhibitAtStart
  rw [← hall]
  exact ite_eq_or_eq _ _ _

theorem inhibitAtStart_record (s : State) (r : Ref) : s.inhibitAtStart.record r = s.inhibitAll.record r := by
  rw [← evaluate_record s.inhibitAll .other r]
  rcases inhibitAtStart_cases s with h | h <;> rw [h]
  exact countChange_record _ _

theorem inhibitAtStart_selected (s : State) : s.inhibitAtStart.rqu.selected = s.inhibitAll.choose := by
  rw [← evaluate_selected s.inhibitAll .other]
  rcases inhibitAtStart_cases s with h | h <;> rw [h]
  exact countChange_selected _

theorem inhibitAtStart_selectionSound (s : State) (hloaded : s.stc.store.isLoading = false) : SelectionSound s.inhibitAtStart := by
  have hframe : RquFrame s s.inhibitAtStart := .inhibitAtStart (.refl s)
  exact selectionSound_of_choose (by rw [hframe.stc, hloaded]) (inhibitAtStart_selected s) (inhibitAtStart_record s)
    (congrArg Sst.record (hframe.sst.trans (inhibitAll_frame s).sst.symm))

theorem endLoading_selectionSound (s before : State) : SelectionSound (s.endLoading before) :=
  selectionSound_of_frame (inhibitAtStart_selectionSound _ rfl) (reportHealth_selectionFrame _ _)

theorem loadModel_selectionSound (s : State) (content : Option (List Byte)) : SelectionSound (s.loadModel content) := by
  unfold State.loadModel
  split <;> exact endLoading_selectionSound _ _

/-! ## Requests -/

/-- A queue changed leaves what the selection rests on. -/
theorem respond_selectionFrame (s : State) (k : Port) (kind : Nat) (x : List Byte) : SelectionFrame s (s.respond k kind x) :=
  .of_eq rfl rfl rfl

theorem lowerFaultLimit_selectionFrame (s : State) (k : Kind) : SelectionFrame s (s.lowerFaultLimit k) := by
  refine SelectionFrame.foldl (fun v r => ?_) refs s
  split
  · exact .onRecord v r _ (fun _ => rfl) (fun _ => rfl)
  · exact .refl v

/-- What a changed setting does at once leaves a sound selection: a change of a priority by an evaluation, any other on a sound one
(R65). -/
theorem settingChanged_selectionSound (s : State) (x : Setting) (old : Int) (hloaded : s.stc.store.isLoading = false)
    (h : (∀ r, x ≠ .priority r) → SelectionSound s) : SelectionSound (s.settingChanged x old) := by
  unfold State.settingChanged
  split
  · next r =>
    refine finish_selectionSound _ _ ?_
    split
    · rw [(RquFrame.inhibit (.refl s)).stc, hloaded]
    · rw [(RquFrame.release (.refl s)).stc, hloaded]
  · exact finish_selectionSound _ _ hloaded
  · exact finish_selectionSound _ _ hloaded
  · split
    · exact selectionSound_of_frame (h fun _ => by simp) (lowerFaultLimit_selectionFrame s _)
    · exact h fun _ => by simp
  · exact (SamplesTaken.refl.thresholdChanged).selectionSound (h fun _ => by simp)
  · exact selectionSound_of_frame (h fun _ => by simp) (.of_eq rfl rfl rfl)
  · next hpriority _ _ _ _ => exact h hpriority

theorem answerSiteSet_selectionSound {s : State} (hloaded : s.stc.store.isLoading = false) (h : SelectionSound s) (k : Port) (i n : Byte)
    (v : BitVec 48) : SelectionSound (answerSiteSet k i n v s) := by
  have happly : ∀ (x : Setting) (y : Int), SelectionSound (s.applySetting k x y) := fun x y => by
    unfold State.applySetting
    split
    · exact h
    · exact settingChanged_selectionSound _ x _ hloaded fun hpriority => selectionSound_of_frame h
        ⟨rfl, fun _ => rfl, fun _ => rfl, fun r => val_put_other _ _ _ _ (hpriority r).symm, rfl⟩
  unfold answerSiteSet
  split
  · exact selectionSound_of_frame h (respond_selectionFrame _ _ _ _)
  · exact selectionSound_of_frame (happly _ _) (respond_selectionFrame _ _ _ _)

/-- A request's owner, once loading has ended, keeps the selection sound. -/
theorem answer_selectionSound {s : State} (hloaded : s.stc.store.isLoading = false) (h : SelectionSound s) (k : Port) (note : PortNote)
    (q : Request) : SelectionSound (s.answer k note q) := by
  have hsave : ∀ kind a, SelectionSound (s.requestSave k kind a) := fun kind a => selectionSound_of_frame h (by
    unfold State.requestSave
    split
    · exact .of_eq rfl rfl hloaded.symm
    · exact respond_selectionFrame _ _ _ _)
  cases q with
  | portSet m p l =>
    refine selectionSound_of_frame h ?_
    show SelectionFrame s (answerPortSet k m p l s)
    unfold answerPortSet
    split <;> exact .of_eq rfl rfl rfl
  | offsetReport f => exact selectionSound_of_frame ((SamplesTaken.refl.takeReport).selectionSound h) (respond_selectionFrame _ _ _ _)
  | modelClear =>
    refine selectionSound_of_frame h (SelectionFrame.trans ?_ (respond_selectionFrame _ _ _ _))
    split
    · exact SelectionFrame.trans (u := s.clearModel) (.of_eq rfl rfl rfl) (reportHealth_selectionFrame _ _)
    · exact .refl s
  | channelSet f =>
    refine selectionSound_of_frame h ?_
    show SelectionFrame s (answerChannelSet k f s)
    unfold answerChannelSet
    split
    · exact respond_selectionFrame _ _ _ _
    · rw [applyChannel_eq]
      exact .of_eq rfl rfl rfl
  | siteSet i n v => exact answerSiteSet_selectionSound hloaded h k i n v
  | siteFreeze =>
    refine selectionSound_of_frame h (SelectionFrame.trans ?_ (respond_selectionFrame _ _ _ _))
    unfold State.freeze
    dsimp only
    split <;> exact .of_eq rfl rfl rfl
  | siteSave => exact hsave 0x13 .site
  | modelSave => exact hsave 0x14 .model
  | _ => exact selectionSound_of_frame h (.of_eq rfl rfl rfl)

/-- A request dispatched keeps the selection sound: while the store is LOADING only IDENTIFY and STATUS are answered by an owner (R174). -/
theorem dispatch_selectionSound {s : State} (h : SelectionSound s) (k : Port) (note : PortNote) (q : Request) :
    SelectionSound (s.dispatch k note q) := by
  unfold State.dispatch
  split
  · exact h
  · split
    · exact selectionSound_of_frame h (respond_selectionFrame _ _ _ _)
    · next hanswered =>
      cases hloaded : s.stc.store.isLoading with
      | false => exact answer_selectionSound hloaded h k note q
      | true =>
        cases q with
        | status => exact selectionSound_of_frame h (respond_selectionFrame _ _ _ _)
        | identify => exact selectionSound_of_frame h (respond_selectionFrame _ _ _ _)
        | _ => exact absurd ⟨hloaded, rfl⟩ hanswered

/-- A change of one port keeps the selection sound. -/
theorem onPort_selectionSound {s : State} (h : SelectionSound s) (k : Port) (f : TenantPort → TenantPort) :
    SelectionSound (s.onPort k f) := selectionSound_of_frame h (.of_eq rfl rfl rfl)

theorem advanceTo_selectionSound {s : State} (h : SelectionSound s) (t : Nat) : SelectionSound (s.advanceTo t) :=
  selectionSound_of_frame h (.of_eq rfl rfl rfl)

theorem request_selectionSound {s : State} (h : SelectionSound s) (k : Port) (t : Nat) (q : Request) :
    SelectionSound (s.request k t q) := by
  unfold State.request
  exact dispatch_selectionSound (onPort_selectionSound (onPort_selectionSound (advanceTo_selectionSound h t) k _) k _) k _ q

theorem receive_selectionSound {s : State} (h : SelectionSound s) (k : Port) (x : Inbound) : SelectionSound (s.receive k x) := by
  unfold State.receive State.dispatchFrame
  split
  · exact onPort_selectionSound h k _
  · have hgood : SelectionSound (s.onPort k TenantPort.goodFrame) := onPort_selectionSound h k _
    split
    · exact onPort_selectionSound hgood k _
    · exact onPort_selectionSound hgood k _
    · exact dispatch_selectionSound hgood k _ _

/-! ## Every command -/

theorem endSave_selectionSound {s : State} (h : SelectionSound s) (v w : Save) (hsaving : s.stc.store = .saving w) (ok : Bool)
    (done begun : Nat) : SelectionSound (s.endSave v ok done begun) := by
  have hloaded : s.stc.store.isLoading = false := by rw [hsaving]; rfl
  have hrecorded : (s.recordSave v ok done begun).stc.store.isLoading = false := by
    show (if s.stc.pendingEmergency then s.stc.store else .idle).isLoading = false
    split
    · exact hloaded
    · rfl
  have htold : SelectionFrame s ((s.recordSave v ok done begun).tellSave v ok) := by
    unfold State.tellSave
    split <;> exact .of_eq rfl rfl (hrecorded.trans hloaded.symm)
  refine selectionSound_of_frame h (htold.trans ?_)
  unfold State.endSave State.startPending
  split
  · exact .of_eq rfl rfl (htold.loading.trans hloaded).symm
  · exact .refl _

/-- A command whose effect leaves what the selection rests on keeps the selection sound. -/
theorem next_selectionSound {s u : State} {c : Instr} (h : SelectionSound s) (hexec : exec c s = .next u) (hu : SelectionFrame s u) :
    ∃ u, exec c s = .next u ∧ SelectionSound u := ⟨u, hexec, selectionSound_of_frame h hu⟩

/-- A request command keeps the selection sound. -/
theorem command_selectionSound {s : State} (h : SelectionSound s) (hrunning : s.running = true) (k : Port) (t : Nat) (q : Request) :
    ∃ u, exec (command k t q) s = .next u ∧ SelectionSound u :=
  ⟨_, exec_command s hrunning k t q, request_selectionSound h k t q⟩

/-- A command taken by a part that runs keeps the selection sound. -/
theorem exec_selectionSound_running (c : Instr) {s : State} (h : SelectionSound s) (hrunning : s.running = true) :
    ∃ u, exec c s = .next u ∧ SelectionSound u := by
  have hadvance : ∀ t, SelectionSound (s.advanceTo t) := advanceTo_selectionSound h
  cases c with
  | hardwareReset cause progress => exact ⟨_, rfl, resetWith_selectionSound _ _ _⟩
  | resetRelease => exact next_selectionSound h rfl (by rw [if_pos hrunning]; exact .refl s)
  | siteLoad a =>
    refine ⟨_, exec_siteLoad s hrunning a, ?_⟩
    split
    · next hloading => exact selectionSound_of_loading h (by rw [hloading]; rfl) rfl
    · exact h
  | modelLoad t a =>
    refine ⟨_, exec_modelLoad s hrunning t a, ?_⟩
    split
    · exact loadModel_selectionSound _ _
    · exact hadvance t
  | epoch => exact next_selectionSound h (exec_epoch s hrunning) (raiseEpoch_selectionFrame s)
  | autosave =>
    refine next_selectionSound h (exec_autosave s hrunning) ?_
    split
    · next hidle =>
      split
      · exact .of_eq rfl rfl (by rw [hidle]; rfl)
      · exact .refl s
    · exact .refl s
  | holdOffExpiry r =>
    refine ⟨_, exec_holdOffExpiry s hrunning r, ?_⟩
    split
    · next hdue =>
      have hloaded : s.stc.store.isLoading = false := by
        by_contra hloading
        have habsent := (h.2 (Bool.eq_true_of_not_eq_false hloading)).2 r (mem_refs r)
        rw [hdue.1] at habsent
        cases habsent
      refine finish_selectionSound _ _ ?_
      rw [(RquFrame.expire (.refl s)).stc, hloaded]
    · exact h
  | settlingExpiry => exact next_selectionSound h (exec_settlingExpiry s hrunning) (by split <;> exact .of_eq rfl rfl rfl)
  | loopUpdate order => exact ⟨_, exec_loopUpdate s hrunning order, update_selectionSound h order⟩
  | slewTick k => exact next_selectionSound h (exec_slewTick s hrunning k) (.of_eq rfl rfl rfl)
  | pulseArrival p t => exact ⟨_, exec_pulseArrival s hrunning p t, (SamplesTaken.refl.pulse).selectionSound (hadvance t)⟩
  | companionRecord p bytes => exact next_selectionSound h (exec_companionRecord s hrunning p bytes) (.of_eq rfl rfl rfl)
  | staleTimerExpiry k =>
    refine ⟨_, exec_staleTimerExpiry s hrunning k, ?_⟩
    split
    · exact (SamplesTaken.refl.staleExpiry).selectionSound h
    · exact h
  | pulseDue k => exact next_selectionSound h (exec_pulseDue s hrunning k) (by split <;> exact .of_eq rfl rfl rfl)
  | pulseEnd k =>
    exact next_selectionSound h (exec_pulseEnd s hrunning k) (by split <;> [exact .refl s; split <;> exact .of_eq rfl rfl rfl])
  | attentionPulseEnd k =>
    exact next_selectionSound h (exec_attentionPulseEnd s hrunning k) (by split <;> [exact .refl s; split <;> exact .of_eq rfl rfl rfl])
  | sensorSequenceStart => exact next_selectionSound h (exec_sensorSequenceStart s hrunning) (.of_eq rfl rfl rfl)
  | vctlSample => exact next_selectionSound h (exec_vctlSample s hrunning) (by split <;> exact .of_eq rfl rfl rfl)
  | sequenceComplete t raw =>
    refine next_selectionSound h (exec_sequenceComplete s hrunning t raw) ?_
    split
    · unfold State.completeSequence State.warmStep
      dsimp only
      refine SelectionFrame.trans ?_ (reportHealth_selectionFrame _ _)
      split <;> split <;> exact .of_eq rfl rfl rfl
    · exact .of_eq rfl rfl rfl
  | transactionStart k => exact next_selectionSound h (exec_transactionStart s hrunning k) (.of_eq rfl rfl rfl)
  | statusByteClockedOut k => exact next_selectionSound h (exec_statusByteClockedOut s hrunning k) (.of_eq rfl rfl rfl)
  | frameReceived k t bytes =>
    refine ⟨_, exec_frameReceived s hrunning k t bytes, ?_⟩
    split
    · exact receive_selectionSound (onPort_selectionSound (hadvance t) k _) k _
    · exact hadvance t
  | saveEnd t clean =>
    refine ⟨_, exec_saveEnd s hrunning t clean, ?_⟩
    split
    · next v hsaving => exact endSave_selectionSound (hadvance t) v v hsaving _ _ _
    · exact hadvance t
  | saveTimeout t progress =>
    refine ⟨_, exec_saveTimeout s hrunning t progress, ?_⟩
    split
    · next v hsaving => exact endSave_selectionSound (hadvance t) v v hsaving _ _ _
    · exact hadvance t
  | powerFailWarning =>
    refine next_selectionSound h (exec_powerFailWarning s hrunning) ?_
    split
    · next hidle => exact .of_eq rfl rfl (by rw [hidle]; rfl)
    · split <;> exact .of_eq rfl rfl rfl
    · exact .refl s
  | f1Edge t => exact next_selectionSound h (exec_f1Edge s hrunning t) (.of_eq rfl rfl rfl)
  | poll k t => exact command_selectionSound h hrunning k t .poll
  | status k t => exact command_selectionSound h hrunning k t .status
  | identify k t => exact command_selectionSound h hrunning k t .identify
  | portSet k t m p l => exact command_selectionSound h hrunning k t (.portSet m p l)
  | portReset k t => exact command_selectionSound h hrunning k t .portReset
  | offsetReport k t f => exact command_selectionSound h hrunning k t (.offsetReport f)
  | referenceGet k t i x => exact command_selectionSound h hrunning k t (.referenceGet i x)
  | historyGet k t i => exact command_selectionSound h hrunning k t (.historyGet i)
  | tableGet k t i => exact command_selectionSound h hrunning k t (.tableGet i)
  | healthGet k t => exact command_selectionSound h hrunning k t .healthGet
  | modelClear k t => exact command_selectionSound h hrunning k t .modelClear
  | episodeGet k t i x => exact command_selectionSound h hrunning k t (.episodeGet i x)
  | sensorGet k t => exact command_selectionSound h hrunning k t .sensorGet
  | channelSet k t f => exact command_selectionSound h hrunning k t (.channelSet f)
  | channelGet k t => exact command_selectionSound h hrunning k t .channelGet
  | siteGet k t i n => exact command_selectionSound h hrunning k t (.siteGet i n)
  | siteSet k t i n v => exact command_selectionSound h hrunning k t (.siteSet i n v)
  | siteFreeze k t => exact command_selectionSound h hrunning k t .siteFreeze
  | siteSave k t => exact command_selectionSound h hrunning k t .siteSave
  | modelSave k t => exact command_selectionSound h hrunning k t .modelSave

/-- While reset is held a command leaves what the selection rests on, or resets the part. -/
theorem exec_selectionSound_held (c : Instr) {s : State} (h : SelectionSound s) (hheld : s.running = false) :
    ∃ u, exec c s = .next u ∧ SelectionSound u := by
  by_cases hreset : isReset c = false
  · by_cases hrelease : isRelease c = false
    · obtain ⟨f, hf⟩ := exec_whileRunning c hreset hrelease
      exact ⟨s, (hf s).trans (whileRunning_held s f hheld), h⟩
    · cases c with
      | resetRelease => exact next_selectionSound h rfl (by rw [hheld]; exact .of_eq rfl rfl rfl)
      | _ => exact absurd rfl hrelease
  · cases c with
    | hardwareReset cause progress => exact ⟨_, rfl, resetWith_selectionSound _ _ _⟩
    | _ => exact absurd rfl hreset

/-- Every command keeps the selection sound. -/
theorem exec_selectionSound {c : Instr} {s u : State} (h : SelectionSound s) (hexec : exec c s = .next u) : SelectionSound u := by
  obtain ⟨u', hexec', hsound⟩ : ∃ u', exec c s = .next u' ∧ SelectionSound u' := by
    cases hrunning : s.running with
    | true => exact exec_selectionSound_running c h hrunning
    | false => exact exec_selectionSound_held c h hrunning
  cases hexec'.symm.trans hexec
  exact hsound

end Sys2Proof.Machine
end

section
/-! SUPPORT. What a content of the MODEL area reads back: it is a row of fields, each read where it was written (section 11.8). -/

namespace Sys2Proof.Machine

open Sys2Proof Sys2Proof.Safety

/-! ## The places of the content -/

/-- The table's 64 entries (section 11.8). -/
def Model.tableBytes (m : Model) : List (List Byte) :=
  (List.range 64).map (fun i => List.append (sField 4 (m.entry i).v) (u1 (m.entry i).w))

/-- The content of the MODEL area as a row of fields. -/
theorem modelContent_row (m : Model) (h : Hop) (marker : Bool) (t : SaveTime) : modelContent m h marker t =
    m.tableBytes.flatten ++ (sField 4 m.slope ++ (u1 (onOff m.slopeValid) ++ (u1 (onOff m.anchor.isSome) ++
      ((m.anchor.map (fun a => secField a.time)).getD (absent 6) ++ (optInt 4 (m.anchor.map (·.freq)) ++ (u1 h.score ++ (sField 4 m.f1Bias ++
      (placed 96 31 (m.history.map Bin.bytes) ++ (uField 2 h.nextNumber ++ (placed 16 27 (h.savedEpisodes.map Episode.bytes) ++
      (u1 (onOff marker) ++ (secField t.sec ++ u1 (onOff t.traceable))))))))))))) := by
  simp [modelContent, Model.tableBytes, saveTimeField]

theorem tableBytes_row (m : Model) : m.tableBytes.length = 64 ∧ m.tableBytes.flatten.length = 320 := by
  have hlength : m.tableBytes.length = 64 := by simp [Model.tableBytes]
  refine ⟨hlength, ?_⟩
  rw [flatten_length 5 _ (by simp [Model.tableBytes]), hlength]

theorem anchorTime_length (m : Model) : ((m.anchor.map (fun a => secField a.time)).getD (absent 6)).length = 6 := by
  cases m.anchor <;> simp

/-- A count with its places takes the room of all of them (section 11.8). -/
theorem placed_length (places size : Nat) (records : List (List Byte)) (hsize : ∀ r ∈ records, r.length = size)
    (hplaces : records.length ≤ places) : (placed places size records).length = 1 + places * size := by
  simp only [placed, List.flatten_cons, List.flatten_nil, List.length_append, u1_length, absent_length, List.length_nil,
    flatten_length size records hsize]
  have : records.length * size ≤ places * size := Nat.mul_le_mul_right _ hplaces
  rw [Nat.sub_mul]
  omega

/-- A count with its places is its records, and zeros after them. -/
theorem placed_eq (places size : Nat) (records : List (List Byte)) :
    placed places size records = u1 records.length ++ (records.flatten ++ absent ((places - records.length) * size)) := by
  simp [placed]

/-- The records of a count with its places, read (section 11.8). -/
theorem recordsOf_placed (places size : Nat) (records : List (List Byte)) (rest : List Byte) (hsize : ∀ r ∈ records, r.length = size)
    (hplaces : records.length ≤ places) (hbyte : places < 256) :
    recordsOf (natIn 0 places (slice 0 1 (placed places size records ++ rest))) size ((placed places size records ++ rest).drop 1) =
      records := by
  have hrow : placed places size records ++ rest =
      u1 records.length ++ (records.flatten ++ (absent ((places - records.length) * size) ++ rest)) := by
    rw [placed_eq, List.append_assoc, List.append_assoc]
  have hcount : natIn 0 places (u1 records.length) = records.length := by
    rw [natIn, natOf_u1 _ (by omega)]
    omega
  rw [hrow, slice_here _ _ _ (u1_length _), hcount, List.drop_left' (u1_length _), recordsOf_flatten size records _ hsize]

/-! ## The fields read back (R188) -/

theorem table_readBack (m : Model) (hlength : m.table.length = 64) (hrange : ∀ x ∈ m.table, x.v.natAbs ≤ 2000000 ∧ x.w ≤ 255) :
    m.tableBytes.map tableEntryOf = m.table := by
  refine List.ext_getElem (by simp [(tableBytes_row m).1, hlength]) fun i hi hi' => ?_
  have hentry : m.entry i = m.table[i] := List.getD_eq_getElem _ _ hi'
  simp only [Model.tableBytes, List.map_map, List.getElem_map, List.getElem_range, Function.comp_apply]
  rw [hentry, tableEntryOf_bytes _ (hrange _ (List.getElem_mem hi'))]

theorem anchor_readBack (a : Option Anchor) (hrange : ∀ x ∈ a, -2147483648 ≤ x.freq ∧ x.freq ≤ 2147483647) :
    (if a.isSome then some (Anchor.mk (secOf ((a.map (fun x => secField x.time)).getD (absent 6))) (intOf (optInt 4 (a.map (·.freq)))))
      else none) = a := by
  cases a with
  | none => rfl
  | some x =>
    obtain ⟨hlow, hhigh⟩ := hrange x rfl
    simp only [Option.isSome_some, if_true, Option.map_some, Option.getD_some, optInt, secOf_secField]
    rw [intOf_sField 4 x.freq (by norm_num; omega) (by norm_num; omega)]

theorem map_readBack {α : Type} (write : α → List Byte) (read : List Byte → α) (xs : List α) (h : ∀ x ∈ xs, read (write x) = x) :
    (xs.map write).map read = xs := by
  rw [List.map_map, List.map_congr_left (g := id) (by simpa using h), List.map_id]

/-- A number that fits its range and its field, written and read. -/
theorem natIn_uField (lo hi n v : Nat) (hlow : lo ≤ v) (hhigh : v ≤ hi) (hfits : hi < 256 ^ n) : natIn lo hi (uField n v) = v := by
  rw [natIn, natOf_uField n v (by omega)]
  omega

/-- What a MODEL content restores is what the save wrote (R94, R137, R188). -/
theorem restoredOf_modelContent (m : Model) (h : Hop) (marker : Bool) (t : SaveTime) (hm : ModelStorable m) (hh : EpisodesStorable h) :
    (modelContent m h marker t).length = 3761 ∧ restoredOf (modelContent m h marker t) =
      { model := m, score := h.score, nextNumber := h.nextNumber, episodes := episodesSaved h, marker := marker, time := t } := by
  obtain ⟨hhistory, htable, hentries, hslope, hbias, hbins, hanchor⟩ := hm
  obtain ⟨hscoreLow, hscoreHigh, hnumberLow, hnumberHigh, hepisodes, hrecords⟩ := hh
  have hsaved : (episodesSaved h).length ≤ 16 := by
    unfold episodesSaved
    split
    · next heq => rw [heq] at hepisodes; exact hepisodes
    · exact hepisodes
  let bins := m.history.map Bin.bytes
  let episodes := (episodesSaved h).map Episode.bytes
  have hbinSize : ∀ r ∈ bins, r.length = 31 := by simp [bins, bin_length]
  have hepisodeSize : ∀ r ∈ episodes, r.length = 27 := by simp [episodes, episode_length]
  have hbinCount : bins.length ≤ 96 := by simpa [bins] using hhistory
  have hepisodeCount : episodes.length ≤ 16 := by simpa [episodes] using hsaved
  have hbinsLength := placed_length 96 31 bins hbinSize hbinCount
  have hepisodesLength := placed_length 16 27 episodes hepisodeSize hepisodeCount
  obtain ⟨htableCount, htableLength⟩ := tableBytes_row m
  have hanchorLength := anchorTime_length m
  have hentriesRead : ∀ rest, recordsOf 64 5 (m.tableBytes.flatten ++ rest) = m.tableBytes := fun rest => by
    rw [← htableCount]
    exact recordsOf_flatten 5 _ rest (by simp [Model.tableBytes])
  have hrow : modelContent m h marker t = _ := modelContent_row m h marker t
  change _ = _ ++ (_ ++ (_ ++ (_ ++ (_ ++ (_ ++ (_ ++ (_ ++ (placed 96 31 bins ++ (_ ++ (placed 16 27 episodes ++ _)))))))))) at hrow
  rw [hrow]
  refine ⟨by simp [htableLength, hanchorLength, hbinsLength, hepisodesLength], ?_⟩
  unfold restoredOf modelOf
  simp only [slice_skip, slice_here, slice_all, drop_skip, htableLength, hanchorLength, hbinsLength, hepisodesLength, sField_length,
    uField_length, u1_length, secField_length, optInt_length, Nat.reduceLeDiff, Nat.reduceSub, Nat.reduceAdd, Nat.reduceMul, Nat.le_refl,
    secOf_secField, onIn_onOff, hentriesRead]
  have hscore : natIn 16 64 (u1 h.score) = h.score := natIn_uField 16 64 1 _ hscoreLow hscoreHigh (by decide)
  rw [recordsOf_placed 96 31 bins _ hbinSize hbinCount (by decide), recordsOf_placed 16 27 episodes _ hepisodeSize hepisodeCount (by decide),
    map_readBack _ _ _ fun b hb => binOf_bytes b (hbins b hb), map_readBack _ _ _ fun e he => episodeOf_bytes e (hrecords e he),
    table_readBack m htable hentries, anchor_readBack m.anchor hanchor, hscore,
    natIn_uField 1 65535 2 _ hnumberLow hnumberHigh (by decide), intOf_sField 4 m.slope (by norm_num; omega) (by norm_num; omega),
    intOf_sField 4 m.f1Bias (by norm_num; omega) (by norm_num; omega), clampAbs_of_natAbs_le _ _ (by omega),
    clampAbs_of_natAbs_le _ _ (by omega)]

end Sys2Proof.Machine
end

section
/-! SUPPORT. The end of loading (section 10.5): what INHIBITED clears, the records inhibited, and what is restored. -/

namespace Sys2Proof.Machine

open Sys2Proof Sys2Proof.Safety

/-! ## Entry to INHIBITED (R43, R52) -/

/-- A record with what entry to INHIBITED clears. -/
def RefRecord.inhibitCleared (y : RefRecord) : RefRecord :=
  { y with faultCount := 0, goodRun := 0, holdOff := 0, lastEstimate := none, history := [] }

theorem inhibitEffects_record (s : State) (r q : Ref) :
    (s.inhibitEffects r).record q = if q = r then (s.record r).inhibitCleared else s.record q := by
  have hwindow : (s.inhibitEffects r).record q =
      (((s.zeroCounts r).onRecord r (fun y => { y with lastEstimate := none })).forgetHistory r).record q := by
    cases r with
    | f1 => rfl
    | phase r => cases r <;> rfl
  rw [hwindow, record_forget, record_onRecord_same, record_onRecord, State.zeroCounts, record_onRecord_same, record_onRecord]
  split <;> rfl

theorem inhibitOne_state (u : State) (r q : Ref) :
    ((u.inhibitOne r).record q).state = if u.inhibited r = true ∧ q = r then .inhibited else (u.record q).state := by
  unfold State.inhibitOne
  split
  · next hsetting =>
    simp only [hsetting, true_and, inhibitEffects_record, record_onRecord]
    by_cases hq : q = r
    · simp only [hq, if_true]
      rfl
    · simp only [hq, if_false]
  · next hsetting => simp only [hsetting, Bool.false_eq_true, false_and, if_false]

/-- The records inhibited are those whose inhibit setting is on. -/
theorem foldl_inhibitOne_state (xs : List Ref) (u : State) (q : Ref) (hsetting : u.inhibited q = true)
    (h : q ∈ xs ∨ (u.record q).state = .inhibited) : ((xs.foldl State.inhibitOne u).record q).state = .inhibited := by
  induction xs generalizing u with
  | nil => exact h.resolve_left List.not_mem_nil
  | cons r rs ih =>
    refine ih _ ?_ ?_
    · rw [State.inhibited, State.site, (inhibitOne_frame u r).sst]
      exact hsetting
    · rw [inhibitOne_state]
      rcases h with hmem | hstate
      · rcases List.mem_cons.1 hmem with rfl | hmem
        · exact .inr (if_pos ⟨hsetting, rfl⟩)
        · exact .inl hmem
      · rw [hstate, ite_self]
        exact .inr rfl

/-! ## Loading ends (R43, R114, R193) -/

/-- A health report keeps what the blocks hold, but for the verdict. -/
theorem reportHealth_rest {s before u : State} (hu : s.reportHealth before = u) :
    u.stc = s.stc ∧ u.lrn.model = s.lrn.model ∧ u.hop = s.hop ∧ u.sst = s.sst ∧ u.dlp = s.dlp ∧ u.sdc = s.sdc ∧ u.ssq = s.ssq ∧
      u.oc = s.oc ∧ u.flash = s.flash ∧ u.rqu = s.rqu := by
  obtain ⟨tp, h⟩ := reportHealth_keeps s before
  rw [← hu, h]
  exact ⟨rfl, rfl, rfl, rfl, rfl, rfl, rfl, rfl, rfl, rfl⟩

/-- The end of loading: the store is IDLE, the records of the settings are INHIBITED, and the blocks beside the Qualifier and the queues
keep what they hold, but for the verdict. -/
theorem endLoading_spec {s before u : State} (hu : s.endLoading before = u) :
    u.stc = { s.stc with store := .idle } ∧ u.lrn.model = s.lrn.model ∧ u.hop = s.hop ∧ u.sst = s.sst ∧ u.dlp = s.dlp ∧ u.sdc = s.sdc ∧
      u.ssq = s.ssq ∧ u.oc = s.oc ∧ u.flash = s.flash ∧ ∀ r, s.inhibited r = true → (u.record r).state = .inhibited := by
  let v := ({ s with stc := { s.stc with store := .idle } } : State)
  have hframe : RquFrame v v.inhibitAtStart := .inhibitAtStart (.refl v)
  obtain ⟨hstc, hmodel, hhop, hsst, hdlp, hsdc, hssq, hoc, hflash, hrqu⟩ := reportHealth_rest (s := v.inhibitAtStart) hu
  refine ⟨hstc.trans hframe.stc, hmodel.trans (congrArg Lrn.model hframe.lrn), hhop.trans hframe.hop, hsst.trans hframe.sst,
    hdlp.trans hframe.dlp, hsdc.trans hframe.sdc, hssq.trans hframe.ssq, hoc.trans hframe.oc, hflash.trans hframe.flash,
    fun r hsetting => ?_⟩
  have hrecord : u.record r = v.inhibitAll.record r :=
    (congrArg (fun x : Rqu => x.records.get r) hrqu).trans (inhibitAtStart_record v r)
  rw [hrecord]
  exact foldl_inhibitOne_state refs v r hsetting (.inl (mem_refs r))

/-- The list with a newest record that had no exit cause closed INTERRUPTED (R137). -/
def closeInterrupted (es : List Episode) : List Episode := if newestOpen es then interrupt es else es

theorem closeInterrupted_eq (es : List Episode) : closeInterrupted es =
    match es with
    | [] => []
    | e :: es => (if e.exitCause = none then { e with exitCause := some .interrupted, traceable := false } else e) :: es := by
  cases es with
  | nil => rfl
  | cons e es =>
    simp only [closeInterrupted, newestOpen, interrupt, Option.isNone_iff_eq_none]
    split <;> rfl

/-- The read of the MODEL area that is in progress ends (R193). -/
theorem exec_modelLoad_due (s : State) (t : Nat) (answered : Bool) (hrunning : s.running = true) (hloading : s.stc.store = .loadingModel) :
    exec (.modelLoad t answered) s = .next ((s.advanceTo t).loadModel (readArea .model answered s.flash.model)) := by
  have hadvanced : (s.advanceTo t).stc.store = .loadingModel := hloading
  rw [exec_modelLoad s hrunning]
  simp only [hadvanced]
  rfl

/-- The closing of a restored newest record changes the list, and the queues by its notice (R137, R140). -/
theorem interruptEpisode_keeps (s : State) :
    ∃ tp, s.interruptEpisode = { s with hop := { s.hop with episodes := closeInterrupted s.hop.episodes }, tp := tp } := by
  have hnotice : ∀ (v : State) (closed : Bool), ∃ tp, v.noticeEpisode closed = { v with tp := tp } := fun v closed => by
    unfold State.noticeEpisode
    split <;> exact ⟨_, rfl⟩
  unfold State.interruptEpisode closeInterrupted
  split
  · exact hnotice _ _
  · exact ⟨_, rfl⟩

end Sys2Proof.Machine
end


section
/-! SUPPORT. A request whose owner only responds changes nothing but its port. -/

namespace Sys2Proof.Machine

open Sys2Proof Sys2Proof.Safety

/-- A request whose owner only responds is answered, and nothing else changes. -/
theorem exec_command_responded (s : State) (k : Port) (t : Nat) (q : Request) (kind : Nat) (payload : List Byte) (h : Ready s k t)
    (hloaded : s.stc.store.isLoading = false)
    (howner : (atDispatch s k t).answer k (s.tp.get k).note q = (atDispatch s k t).respond k kind payload) :
    exec (command k t q) s = .next (answered s k t kind payload) := by
  rw [exec_command_answered s k t q h hloaded, howner, respond_atDispatch s k t kind payload h]

end Sys2Proof.Machine
end


section
/-! SUPPORT. What a SITE SET changes (R186): the one value, the record of a changed inhibit setting, and the queues, which take the response
where they have room or hold a notice (R175 to R177). -/

namespace Sys2Proof.Machine

open Sys2Proof Sys2Proof.Safety

/-! ## The Qualifier's work leaves the queues -/

@[simp] theorem Work.unmark_tp (w : Work) (a b : PhaseRef) : (w.unmark a b).st.tp = w.st.tp := by
  unfold Work.unmark
  split <;> rfl

@[simp] theorem Work.dispute_tp (w : Work) (a b : PhaseRef) : (w.dispute a b).st.tp = w.st.tp := by
  unfold Work.dispute
  split <;> rfl

@[simp] theorem Work.clearPair_tp (w : Work) (a b : PhaseRef) : (w.clearPair a b).st.tp = w.st.tp := by
  rw [Work.clearPair, Work.unmark_tp, Work.unmark_tp]
  rfl

@[simp] theorem Work.clearPairs_tp (w : Work) (r : Ref) : (w.clearPairs r).st.tp = w.st.tp := by
  cases r with
  | f1 => rfl
  | phase a => exact List.foldlRecOn (motive := fun v : Work => v.st.tp = w.st.tp) _ _ rfl fun v h b _ => (v.clearPair_tp a b).trans h

@[simp] theorem State.forgetHistory_tp (s : State) (r : Ref) : (s.forgetHistory r).tp = s.tp := by
  unfold State.forgetHistory
  dsimp only
  split <;> rfl

@[simp] theorem Work.fault_tp (w : Work) (r : Ref) (c : Cause) : (w.fault r c).st.tp = w.st.tp := by
  refine (State.forgetHistory_tp _ r).trans ?_
  rw [Work.clearPairs_tp]
  rfl

@[simp] theorem Work.countBad_tp (w : Work) (r : Ref) (c : Cause) : (w.countBad r c).st.tp = w.st.tp := by
  unfold Work.countBad
  dsimp only
  split
  · split
    · exact Work.fault_tp _ r c
    · rfl
  · rfl

@[simp] theorem Work.countGood_tp (w : Work) (r : Ref) : (w.countGood r).st.tp = w.st.tp := by
  unfold Work.countGood
  dsimp only
  split
  · split <;> rfl
  · rfl

@[simp] theorem Work.firstSample_tp (w : Work) (r : Ref) : (w.firstSample r).st.tp = w.st.tp := by
  unfold Work.firstSample
  split <;> rfl

@[simp] theorem Work.resolve_tp (w : Work) (t : Sec) (a b : PhaseRef) (ea eb : Int) : (w.resolve t a b ea eb).st.tp = w.st.tp := by
  unfold Work.resolve
  split
  · simp
  · split
    · simp
    · split <;> simp

@[simp] theorem Work.compareWith_tp (w : Work) (t : Sec) (a b : PhaseRef) (ea : Int) : (w.compareWith t a ea b).st.tp = w.st.tp := by
  unfold Work.compareWith
  split
  · rfl
  · split
    · dsimp only
      generalize (if w.st.disagree ea _ then PairEntry.disagreed else PairEntry.agreed) = change
      split
      · split
        · exact Work.clearPair_tp _ a b
        · exact Work.resolve_tp _ t a b ea _
      · rfl
    · rfl

@[simp] theorem State.keepHistory_tp (s : State) (r : PhaseRef) (e : Int) : (s.keepHistory r e).tp = s.tp := by
  unfold State.keepHistory
  split
  · rfl
  · split <;> rfl

@[simp] theorem Work.takePhase_tp (w : Work) (r : PhaseRef) (x : PhaseEstimate) : (w.takePhase r x).st.tp = w.st.tp := by
  have hheld : ∀ good, ((w.st.hold r x good).keepHistory r x.e).tp = w.st.tp := fun good => State.keepHistory_tp _ r x.e
  have hcompared : ∀ v : Work, (v.compareAll x.time.sec r x.e).st.tp = v.st.tp := fun v =>
    List.foldlRecOn (motive := fun u : Work => u.st.tp = v.st.tp) _ _ rfl fun u h b _ => (u.compareWith_tp _ r b _).trans h
  unfold Work.takePhase
  dsimp only
  split
  · rw [Work.countBad_tp, Work.firstSample_tp]
    exact hheld _
  · split
    · rw [hcompared, Work.countGood_tp, Work.firstSample_tp]
      exact hheld _
    · rw [Work.countGood_tp, Work.firstSample_tp]
      exact hheld _

/-- The work of a sample leaves the queues. -/
@[simp] theorem Work.take_tp (w : Work) (r : Ref) (x : Sample) : (w.take r x).st.tp = w.st.tp := by
  unfold Work.take
  split
  · split
    · rfl
    · split <;> rfl
  · split
    · exact Work.takePhase_tp w _ _
    · rw [Work.countBad_tp, Work.firstSample_tp]
    · rw [Work.countGood_tp, Work.firstSample_tp]
      rfl
    · rfl

@[simp] theorem Work.inhibit_tp (w : Work) (r : Ref) : (w.inhibit r).st.tp = w.st.tp := by
  have heffects : ∀ s : State, (s.inhibitEffects r).tp = s.tp := fun s => by
    refine Eq.trans ?_ (State.forgetHistory_tp ((s.zeroCounts r).onRecord r (fun y => { y with lastEstimate := none })) r)
    cases r with
    | f1 => rfl
    | phase r => cases r <;> rfl
  unfold Work.inhibit
  split
  · rfl
  · rw [Work.clearPairs_tp]
    exact heffects _

@[simp] theorem Work.release_tp (w : Work) (r : Ref) : (w.release r).st.tp = w.st.tp := by
  unfold Work.release
  split
  · refine (State.forgetHistory_tp _ r).trans ?_
    cases r with
    | f1 => rfl
    | phase r => cases r <;> rfl
  · rfl

@[simp] theorem State.lowerFaultLimit_tp (s : State) (k : Kind) : (s.lowerFaultLimit k).tp = s.tp :=
  List.foldlRecOn (motive := fun u : State => u.tp = s.tp) _ _ rfl fun u h r _ => by
    split
    · exact h
    · exact h

/-! ## Queues that take a frame (R176, R177) -/

/-- A queue takes a frame that is not a TIME MARK: it has room, or it holds a notice, which would make room. -/
def TenantPort.takesFrame (p : TenantPort) : Prop := p.places < 8 ∨ ∃ f ∈ p.queue, f.notice ≠ none

theorem append_last (phase : Nat) (p : TenantPort) (f : Frame) : (p.append phase f).queue.getLast? = some f := List.getLast?_concat

theorem append_takesFrame (phase : Nat) (p : TenantPort) (f : Frame) (h : f.notice ≠ none) : (p.append phase f).takesFrame :=
  .inr ⟨f, List.mem_append_right p.queue (List.mem_singleton.2 rfl), h⟩

/-- Room can be made in a queue that holds a notice (R177). -/
theorem makeRoom_ne_none (p : TenantPort) (h : ∃ f ∈ p.queue, f.notice ≠ none) : p.makeRoom ≠ none := by
  obtain ⟨f, hf, hnotice⟩ := h
  have hany : p.queue.any (fun f => f.notice.isSome) = true := List.any_eq_true.2 ⟨f, hf, Option.isSome_iff_ne_none.2 hnotice⟩
  unfold TenantPort.makeRoom
  rw [hany]
  split <;> simp

/-- A frame that joins such a queue stands last in it. -/
theorem join_last (phase : Nat) (p : TenantPort) (f : Frame) (h : p.takesFrame) (hf : f.notice ≠ some .timeMark) :
    (p.join phase f).queue.getLast? = some f := by
  unfold TenantPort.join
  split
  · exact append_last _ _ _
  · next hfull =>
    split
    · exact append_last _ _ _
    · next hnone => exact absurd hnone (makeRoom_ne_none p (h.resolve_left hfull))

/-- A notice placed leaves a queue that takes a frame. -/
theorem place_takesFrame (phase : Nat) (p : TenantPort) (n : NoticeKind) (x : List Byte) (h : p.takesFrame) :
    (p.place phase n x).takesFrame := by
  rcases place_cases phase p n x with ⟨hqueued, hplace⟩ | ⟨-, hplace⟩
  · obtain ⟨f, hf, hkind⟩ := List.any_eq_true.1 hqueued
    have hnotice : f.notice = some n := by simpa [Frame.isNotice] using hkind
    rw [hplace]
    exact .inr ⟨{ f with payload := x }, List.mem_map.2 ⟨f, hf, if_pos hkind⟩, by rw [hnotice]; simp⟩
  · rw [hplace]
    rcases join_cases phase p { notice := some n, kind := byte n.code, payload := x } with ⟨-, hjoin⟩ | ⟨p', -, hjoin⟩ | ⟨-, hjoin⟩
    · exact hjoin ▸ append_takesFrame _ _ _ (by simp)
    · exact hjoin ▸ append_takesFrame _ _ _ (by simp)
    · rw [hjoin]
      exact h

theorem noticeAll_takesFrame (s : State) (n : NoticeKind) (x : List Byte) (k : Port) (h : (s.tp.get k).takesFrame) :
    ((s.noticeAll n x).tp.get k).takesFrame := by
  rw [State.noticeAll, perPort_get_map]
  exact place_takesFrame _ _ _ _ h

theorem finish_takesFrame (w : Work) (t : Trigger) (k : Port) (h : (w.st.tp.get k).takesFrame) : ((w.finish t).tp.get k).takesFrame := by
  have hevaluated : (w.st.evaluate t).tp = w.st.tp := by
    unfold State.evaluate
    dsimp only
    split <;> rfl
  unfold Work.finish
  dsimp only
  split
  · rwa [hevaluated]
  · refine noticeAll_takesFrame _ _ _ _ ?_
    rwa [State.countChange, hevaluated]

/-- What a changed setting does at once leaves queues that take a frame. -/
theorem settingChanged_takesFrame (s : State) (x : Setting) (old : Int) (k : Port) (h : (s.tp.get k).takesFrame) :
    ((s.settingChanged x old).tp.get k).takesFrame := by
  have hsample : ∀ (v : State) (r : Ref) (e : Sample), (v.tp.get k).takesFrame → ((v.sample r e).tp.get k).takesFrame := fun v r e g => by
    unfold State.sample
    split
    · exact g
    · exact finish_takesFrame _ _ k (by rwa [Work.take_tp])
  unfold State.settingChanged
  split
  · refine finish_takesFrame _ _ k ?_
    split
    · rwa [Work.inhibit_tp]
    · rwa [Work.release_tp]
  · exact finish_takesFrame _ _ k h
  · exact finish_takesFrame _ _ k h
  · split
    · rwa [State.lowerFaultLimit_tp]
    · exact h
  · unfold State.thresholdChanged State.closeWindow
    dsimp only
    split
    · split
      · exact h
      · exact hsample _ _ _ h
    · exact h
  · exact h
  · exact h

/-! ## The checks of R186 -/

/-- Every range has its ends in order (R184). -/
theorem range_ordered (x : Setting) : x.range.1 ≤ x.range.2 := by
  cases x with
  | bandwidth k => cases k <;> decide
  | lowLimit c => cases c <;> decide
  | highLimit c => cases c <;> decide
  | hysteresis c => cases c <;> decide
  | _ => simp [Setting.range]

theorem admits_iff (x : Setting) (v : Int) : x.admits v = true ↔ x.range.1 ≤ v ∧ v ≤ x.range.2 := by simp [Setting.admits]

/-- A SITE SET that no check refuses applies the value at the nearer end of its range (R186). -/
theorem check_applied (x : Sst) (ident inst : Nat) (v : Int) (y : Setting) (hnamed : Setting.named ident inst = some y)
    (hchoice : ¬(y.isChoice = true ∧ ¬(y.range.1 ≤ v ∧ v ≤ y.range.2))) (hthawed : x.frozen = false) :
    x.check ident inst v = .applied y (max y.range.1 (min y.range.2 v)) (if y.range.1 ≤ v ∧ v ≤ y.range.2 then .ok else .clamped) := by
  rw [← admits_iff] at hchoice
  have hclamped : y.clamped v = max y.range.1 (min y.range.2 v) := clamp_eq_max_min _ _ _ (range_ordered y)
  unfold Sst.check
  rw [hnamed]
  simp only [hthawed, Bool.false_eq_true, if_false, ← admits_iff]
  rw [if_neg (by simpa using hchoice)]
  split
  · next hadmits =>
    have := (admits_iff y v).1 hadmits
    rw [show max y.range.1 (min y.range.2 v) = v by omega]
  · rw [hclamped]

theorem check_choice (x : Sst) (ident inst : Nat) (v : Int) (y : Setting) (hnamed : Setting.named ident inst = some y)
    (hchoice : y.isChoice = true ∧ ¬(y.range.1 ≤ v ∧ v ≤ y.range.2)) : x.check ident inst v = .refused .malformed := by
  rw [← admits_iff] at hchoice
  unfold Sst.check
  rw [hnamed]
  exact if_pos ⟨hchoice.1, Bool.eq_false_iff.2 hchoice.2⟩

theorem check_frozen (x : Sst) (ident inst : Nat) (v : Int) (y : Setting) (hnamed : Setting.named ident inst = some y)
    (hchoice : ¬(y.isChoice = true ∧ ¬(y.range.1 ≤ v ∧ v ≤ y.range.2))) (hfrozen : x.frozen = true) :
    x.check ident inst v = .refused .frozen := by
  rw [← admits_iff] at hchoice
  unfold Sst.check
  rw [hnamed]
  exact (if_neg (by simpa using hchoice)).trans (if_pos hfrozen)

/-! ## A value applied -/

/-- The part with a value put and its SETTINGS notice placed, before the owning block acts (R186). -/
def State.settingPut (s : State) (k : Port) (x : Setting) (v : Int) : State :=
  let u := { s with sst := { s.sst with record := s.sst.record.put x v, changeCount := (s.sst.changeCount + 1) % 65536 } }
  u.noticeAll .settings (u.settingsNotice 0 x.ident x.instanceNumber v k)

theorem changeSetting_eq (s : State) (k : Port) (x : Setting) (v : Int) :
    s.changeSetting k x v = (s.settingPut k x v).settingChanged x (s.site.val x) := rfl

/-- A value applied stays in the settings, the Qualifier, the front end and the queues (R186). -/
theorem applySetting_frame (s : State) (k : Port) (x : Setting) (v : Int) :
    RquFrame { s with sst := { s.sst with
      record := s.site.put x v
      changeCount := if s.site.val x = v then s.sst.changeCount else (s.sst.changeCount + 1) % 65536 } } (s.applySetting k x v) := by
  unfold State.applySetting
  split
  · next hsame =>
    have hput : s.site.put x v = s.site := by rw [← hsame, put_val]
    rw [hput]
    exact .refl s
  · rw [changeSetting_eq]
    exact .settingChanged (.of_sample (.refl _) (.noticeAll (.refl _)))

theorem applySetting_takesFrame (s : State) (k j : Port) (x : Setting) (v : Int) (h : (s.tp.get j).takesFrame) :
    ((s.applySetting k x v).tp.get j).takesFrame := by
  unfold State.applySetting
  split
  · exact h
  · exact settingChanged_takesFrame _ x _ j (noticeAll_takesFrame _ _ _ j h)

/-- A response that joins a queue that takes it stands last. -/
theorem respond_last_of_takesFrame (s : State) (k : Port) (kind : Nat) (x : List Byte) (h : (s.tp.get k).takesFrame) :
    ((s.respond k kind x).tp.get k).queue.getLast? = some { notice := none, kind := byte kind, payload := x } := by
  rw [State.respond, port_onPort]
  exact join_last _ _ _ h (by simp)

/-! ## Inhibit settings (R52, R53) -/

/-- The record that enters INHIBITED (R52). -/
theorem inhibit_record (w : Work) (r : Ref) (h : (w.st.record r).state ≠ .inhibited) :
    let y := w.st.record r
    let z := (w.inhibit r).st.record r
    z.state = .inhibited ∧ z.trail = enterTrail w.st.tsu.seconds .inhibited .inhibit y.trail ∧ z.faultCount = 0 ∧ z.goodRun = 0 ∧
      z.holdOff = 0 ∧ z.currentHoldOff = y.currentHoldOff ∧ z.lastEstimate = none ∧ z.history = [] := by
  let entered := (w.transition r .inhibited .inhibit).on (fun s => s.inhibitEffects r)
  have hinhibit : w.inhibit r = entered.clearPairs r := if_neg h
  have hentered : entered.st.record r = { w.st.record r with
      state := .inhibited, trail := enterTrail w.st.tsu.seconds .inhibited .inhibit (w.st.record r).trail : RefRecord }.inhibitCleared := by
    refine (inhibitEffects_record _ r r).trans ?_
    rw [if_pos rfl, record_transition, if_pos rfl]
  have hplain := clearPairs_plain entered r r
  rw [← hinhibit, hentered] at hplain
  simp only [RefRecord.plain, RefRecord.inhibitCleared, RefRecord.mk.injEq] at hplain
  obtain ⟨hstate, hfault, hrun, hhold, hcurrent, hlast, hhistory, -, -, htrail, -⟩ := hplain
  exact ⟨hstate, htrail, hfault, hrun, hhold, hcurrent, hlast, hhistory⟩

/-- The window of a packet reference that enters INHIBITED is flushed, and its timer stops (R52). -/
theorem inhibit_window (w : Work) (j : Port) (h : (w.st.record (.phase (.packet j))).state ≠ .inhibited) :
    ((w.inhibit (.phase (.packet j))).st.rfe.windows.get j).reports = [] ∧
      ((w.inhibit (.phase (.packet j))).st.rfe.windows.get j).timer = none := by
  let r : Ref := .phase (.packet j)
  let entered := (w.transition r .inhibited .inhibit).on (fun s => s.inhibitEffects r)
  have hinhibit : w.inhibit r = entered.clearPairs r := if_neg h
  have hwindows : (w.inhibit r).st.rfe.windows = entered.st.rfe.windows := by
    rw [hinhibit]
    exact (SampleFrame.clearPairs (.refl _)).windows
  have hstopped : ∀ s : State, (((s.flushWindow j).stopTimer j).rfe.windows.get j).reports = [] ∧
      (((s.flushWindow j).stopTimer j).rfe.windows.get j).timer = none := fun s => by
    rw [State.stopTimer, window_onWindow, State.flushWindow, window_onWindow]
    exact ⟨rfl, rfl⟩
  rw [hwindows]
  exact hstopped _

/-- The record that leaves INHIBITED (R53). -/
theorem release_record (w : Work) (r : Ref) (h : (w.st.record r).state = .inhibited) :
    (w.release r).st.record r = { w.st.record r with
      state := .absent, trail := enterTrail w.st.tsu.seconds .absent .inhibitCleared (w.st.record r).trail
      faultCount := 0, goodRun := 0, holdOff := 0, history := [] } := by
  have hrelease : w.release r = (w.transition r .absent .inhibitCleared).on (fun s => ((s.zeroCounts r).stopTimerOf r).forgetHistory r) :=
    if_pos h
  rw [hrelease]
  simp only [Work.on, record_forget, record_stopTimerOf, State.zeroCounts, record_onRecord_same, record_transition, if_true]

/-- The part with an inhibit setting put finds it as it was put. -/
theorem settingPut_inhibited (s : State) (k : Port) (r : Ref) (v : Int) (h : SettingsInRange s) :
    (s.settingPut k (.inhibit r) v).inhibited r = (v == 1) := by
  have hlength : s.site.values.length = 78 := by
    simp only [SettingsInRange, SiteRecord.inRange, Bool.and_eq_true, beq_iff_eq] at h
    exact h.1
  show ((s.site.put (.inhibit r) v).val (.inhibit r) == 1) = _
  rw [val_put_same _ _ _ hlength]

/-- A reference whose record is not QUALIFIED is not selected at the end of an event of the Qualifier (R63). -/
theorem finish_not_selected (w : Work) (t : Trigger) (a : PhaseRef) (h : (w.st.record (.phase a)).state ≠ .qualified) :
    (w.finish t).rqu.selected ≠ some a := by
  rw [finish_selected]
  exact fun hselected => h (qualified_of_eligible _ a (choose_eligible _ a hselected))

/-- An inhibit setting changed to on inhibits the record, which is not selected afterwards (R52, R63). -/
theorem applySetting_inhibits (s : State) (k : Port) (r : Ref) (h : SettingsInRange s) (hoff : s.site.val (.inhibit r) = 0)
    (hstate : (s.record r).state ≠ .inhibited) :
    let y := s.record r
    let u := s.applySetting k (.inhibit r) 1
    let z := u.record r
    z.state = .inhibited ∧ z.trail = enterTrail s.tsu.seconds .inhibited .inhibit y.trail ∧ z.faultCount = 0 ∧ z.goodRun = 0 ∧
      z.holdOff = 0 ∧ z.currentHoldOff = y.currentHoldOff ∧ z.lastEstimate = none ∧ z.history = [] ∧
      (∀ a, r = .phase a → u.rqu.selected ≠ some a) ∧
      ∀ j, r = .phase (.packet j) → (u.rfe.windows.get j).reports = [] ∧ (u.rfe.windows.get j).timer = none := by
  let w : Work := ⟨s.settingPut k (.inhibit r) 1, []⟩
  have happlied : s.applySetting k (.inhibit r) 1 = (w.inhibit r).finish .other := by
    rw [State.applySetting, if_neg (by omega), changeSetting_eq]
    show Work.finish (if (s.settingPut k (.inhibit r) 1).inhibited r then w.inhibit r else w.release r) .other = _
    rw [settingPut_inhibited s k r 1 h]
    rfl
  have hrecord := inhibit_record w r hstate
  have hinhibited : ((w.inhibit r).st.record r).state = .inhibited := hrecord.1
  have hwindows : ((w.inhibit r).finish .other).rfe.windows = (w.inhibit r).st.rfe.windows := (SampleFrame.finish (.refl _)).windows
  intro y u z
  have hz : z = (w.inhibit r).st.record r := (congrArg (fun x : State => x.record r) happlied).trans (finish_record _ _ _)
  obtain ⟨hstate', htrail, hfault, hrun, hhold, hcurrent, hlast, hhistory⟩ := hz ▸ hrecord
  refine ⟨hstate', htrail, hfault, hrun, hhold, hcurrent, hlast, hhistory, fun a ha => ?_, fun j hj => ?_⟩
  · unfold u
    rw [happlied]
    refine finish_not_selected _ _ a ?_
    rw [← ha, hinhibited]
    decide
  · unfold u
    rw [happlied, hwindows]
    subst hj
    exact inhibit_window w j hstate

/-- An inhibit setting changed to off releases the record (R53). -/
theorem applySetting_releases (s : State) (k : Port) (r : Ref) (h : SettingsInRange s) (hon : s.site.val (.inhibit r) = 1)
    (hstate : (s.record r).state = .inhibited) :
    (s.applySetting k (.inhibit r) 0).record r = { s.record r with
      state := .absent, trail := enterTrail s.tsu.seconds .absent .inhibitCleared (s.record r).trail
      faultCount := 0, goodRun := 0, holdOff := 0, history := [] } := by
  let w : Work := ⟨s.settingPut k (.inhibit r) 0, []⟩
  have happlied : s.applySetting k (.inhibit r) 0 = (w.release r).finish .other := by
    rw [State.applySetting, if_neg (by omega), changeSetting_eq]
    show Work.finish (if (s.settingPut k (.inhibit r) 0).inhibited r then w.inhibit r else w.release r) .other = _
    rw [settingPut_inhibited s k r 0 h]
    rfl
  rw [happlied, finish_record]
  exact release_record w r hstate

/-! ## The answer (R186) -/

/-- A value applied is answered behind the notices that it causes: the result leads the response. -/
theorem answerSiteSet_applied (s : State) (k : Port) (ident inst : Byte) (v : BitVec 48) (x : Setting) (y : Int) (ok : Prop) [Decidable ok]
    (h : s.sst.check ident.toNat inst.toNat v.toInt = .applied x y (if ok then .ok else .clamped)) :
    ∃ rest, answerSiteSet k ident inst v s = (s.applySetting k x y).respond k 0x11 ((if ok then 0 else 1) :: rest) := by
  refine ⟨List.flatten [[ident, inst], valueField ((s.applySetting k x y).site.val x)], ?_⟩
  have hlead : u1 (if ok then ResultCode.ok else .clamped).code = [if ok then 0 else 1] := by
    split
    · exact u1_of_lt 0 (by decide)
    · exact u1_of_lt 1 (by decide)
  unfold answerSiteSet
  rw [h]
  simp only [List.flatten_cons, hlead]
  rfl

end Sys2Proof.Machine
end
section
/-! The statements about the qualification and the selection of references, settled. -/

namespace Sys2Proof.ReferenceSelection

open Sys2Proof Sys2Proof.Machine Sys2Proof.Safety

/-- Settles O21: on an empty queue the part idles, and every command keeps the selection sound. -/
theorem selectionStaysSound : Obligations.SelectionStaysSound := by
  intro s u h hstep
  unfold step at hstep
  split at hstep
  · cases hstep
    exact h
  · next rest _ => exact exec_selectionSound (selectionSound_of_frame (u := { s with pending := rest }) h (.of_eq rfl rfl rfl)) hstep

/-- Settles O5: loading ends on what was restored, and the content of the MODEL area reads back field by field. -/
theorem modelLoadRestores : Obligations.ModelLoadRestores := by
  refine ⟨fun t answered s hrunning hloading => ?_, fun m h marker t hm hh => ?_⟩
  · obtain ⟨u, hu⟩ : ∃ u, (s.advanceTo t).loadModel (readArea .model answered s.flash.model) = u := ⟨_, rfl⟩
    refine ⟨u, hu ▸ exec_modelLoad_due s t answered hrunning hloading, ?_⟩
    show _ ∧ _ ∧ _ ∧ _ ∧ _ ∧ _ ∧ _ ∧ _ ∧ match readArea .model answered s.flash.model with | none => _ | some c => _
    cases hread : readArea .model answered s.flash.model with
    | none =>
      rw [hread] at hu
      obtain ⟨hstc, hmodel, hhop, hsst, hdlp, hsdc, hssq, hoc, hflash, hinhibited⟩ := endLoading_spec hu
      exact ⟨congrArg Stc.store hstc, fun r _ => hinhibited r, hsst, hdlp, hsdc, hssq, hoc, hflash, hmodel, hhop,
        (congrArg Stc.modelRestored hstc).trans rfl, (congrArg Stc.previousStop hstc).trans rfl, (congrArg Stc.lastSave hstc).trans rfl⟩
    | some c =>
      rw [hread] at hu
      obtain ⟨tp, hinterrupt⟩ := interruptEpisode_keeps ((s.advanceTo t).restore (restoredOf c))
      obtain ⟨hstc, hmodel, hhop, hsst, hdlp, hsdc, hssq, hoc, hflash, hinhibited⟩ := endLoading_spec hu
      rw [hinterrupt] at hstc hmodel hhop hsst hdlp hsdc hssq hoc hflash hinhibited
      rw [closeInterrupted_eq] at hhop
      exact ⟨congrArg Stc.store hstc, fun r _ => hinhibited r, hsst, hdlp, hsdc, hssq, hoc, hflash, hmodel, hhop,
        congrArg Stc.modelRestored hstc, congrArg Stc.previousStop hstc, congrArg Stc.lastSave hstc⟩
  · obtain ⟨hlength, hrestored⟩ := restoredOf_modelContent m h marker t hm hh
    exact ⟨contentOf_image .model _ hlength, hrestored⟩

/-- Settles O49: each request's owner only responds. -/
theorem readRequestsAnswered : Obligations.ReadRequestsAnswered := by
  intro k t i x s hready hloaded
  have hanswered := fun q kind payload => exec_command_responded s k t q kind payload hready hloaded
  exact ⟨hanswered (.referenceGet i x) _ _ rfl, hanswered (.historyGet i) _ _ rfl, hanswered (.tableGet i) _ _ rfl,
    hanswered .healthGet _ _ rfl, hanswered (.episodeGet i x) _ _ rfl, hanswered .sensorGet _ _ rfl, hanswered .channelGet _ _ rfl,
    hanswered (.siteGet i x) _ _ rfl⟩

/-- Settles O53: the checks in their order, then the value applied and the response behind its notices. -/
theorem siteSetChecked : Obligations.SiteSetChecked := by
  intro k t ident inst v s hready hloaded
  have hanswer := exec_command_answered s k t (.siteSet ident inst v) hready hloaded
  have hrefused : ∀ r : ResultCode, r.code < 256 → s.sst.check ident.toNat inst.toNat v.toInt = .refused r →
      exec (.siteSet k t ident inst v) s = .next (answered s k t 0x11 [byte r.code]) := fun r hcode hcheck => by
    refine exec_command_responded s k t (.siteSet ident inst v) 0x11 _ hready hloaded ?_
    show answerSiteSet k ident inst v (atDispatch s k t) = _
    unfold answerSiteSet
    rw [show (atDispatch s k t).sst = s.sst from rfl, hcheck, ← u1_of_lt _ hcode]
    rfl
  split
  · next hnamed => exact hrefused .malformed (by decide) (by rw [Sst.check, hnamed])
  · next x hnamed =>
    split
    · next hchoice => exact hrefused .malformed (by decide) (check_choice _ _ _ _ x hnamed hchoice)
    · next hchoice =>
      split
      · next hfrozen => exact hrefused .frozen (by decide) (check_frozen _ _ _ _ x hnamed hchoice hfrozen)
      · next hthawed =>
        let d := atDispatch s k t
        let y := max x.range.1 (min x.range.2 v.toInt)
        have hcheck := check_applied s.sst ident.toNat inst.toNat v.toInt x hnamed hchoice (Bool.eq_false_iff.2 hthawed)
        obtain ⟨rest, hresponse⟩ := answerSiteSet_applied d k ident inst v x y _ hcheck
        have hframe := applySetting_frame d k x y
        have hroom : (d.tp.get k).takesFrame := .inl
          ((congrArg TenantPort.places (perPort_get_set_same _ _ _)).trans_lt (collected_places _ hready.2.2))
        have hlast := respond_last_of_takesFrame _ k 0x11 ((if x.range.1 ≤ v.toInt ∧ v.toInt ≤ x.range.2 then 0 else 1) :: rest)
          (applySetting_takesFrame d k k x y hroom)
        refine ⟨_, hanswer.trans (congrArg Host.Outcome.next hresponse), congrArg Sst.record hframe.sst,
          (congrArg Sst.frozen hframe.sst).trans (Bool.eq_false_iff.2 hthawed), (congrArg Sst.siteDefault hframe.sst).trans rfl,
          congrArg Sst.changeCount hframe.sst, ⟨_, hlast, rfl, rfl⟩, hframe.tsu, hframe.dlp, hframe.lrn, hframe.hop, hframe.sdc,
          hframe.ssq, hframe.oc, hframe.stc, hframe.flash, ?_⟩
        rintro r rfl hrange
        have hy : y = max 0 (min 1 v.toInt) := rfl
        refine ⟨fun hoff hon hstate => ?_, fun hon hoff hstate => ?_, fun hsame => ?_⟩
        · have hone : y = 1 := by omega
          rw [hone]
          exact applySetting_inhibits d k r hrange hoff hstate
        · have hzero : y = 0 := by omega
          rw [hzero]
          have hreleased := applySetting_releases d k r hrange hon hstate
          exact ⟨congrArg RefRecord.state hreleased, congrArg RefRecord.trail hreleased, congrArg RefRecord.faultCount hreleased,
            congrArg RefRecord.goodRun hreleased, (congrArg RefRecord.lastEstimate hreleased).trans rfl⟩
        · have hin : 0 ≤ v.toInt ∧ v.toInt ≤ 1 := not_not.1 fun hout => hchoice ⟨rfl, hout⟩
          have hkept : d.applySetting k (.inhibit r) y = d := if_pos (hsame.trans (by omega))
          exact (congrArg (fun u : State => u.record r) hkept).trans rfl

end Sys2Proof.ReferenceSelection
end

section
/-! SUPPORT. Which commands can change the engine state: only a hardware reset and a loop update; and what a loop update's decision makes of
the engine state and the traceable flag (R70). -/

namespace Sys2Proof.Machine

open Sys2Proof Sys2Proof.Safety

/-! ## Operations that leave the loop's record -/

section

variable (s : State)

@[simp] theorem State.reportHealth_dlp (before : State) : (s.reportHealth before).dlp = s.dlp := (reportHealth_rest rfl).2.2.2.2.1

/-- No request's owner touches the loop's record. -/
@[simp] theorem State.answer_dlp (k : Port) (note : PortNote) (q : Request) : (s.answer k note q).dlp = s.dlp := by
  have hsave : ∀ kind a, (s.requestSave k kind a).dlp = s.dlp := fun kind a => by
    unfold State.requestSave
    split <;> rfl
  cases q with
  | portSet m p l => simp only [State.answer, answerPortSet]; split <;> rfl
  | offsetReport f => exact (RquFrame.takeReport (.refl s)).dlp
  | modelClear => simp only [State.answer, answerModelClear]; split <;> simp
  | channelSet f =>
    simp only [State.answer, answerChannelSet]
    split
    · rfl
    · simp [applyChannel_spec]
  | siteSet i n v =>
    simp only [State.answer, answerSiteSet]
    split
    · rfl
    · exact (applySetting_frame s k _ _).dlp
  | siteFreeze => simp only [State.answer, answerSiteFreeze, State.freeze]; split <;> rfl
  | siteSave => exact hsave 0x13 .site
  | modelSave => exact hsave 0x14 .model
  | _ => rfl

@[simp] theorem State.dispatch_dlp (k : Port) (note : PortNote) (q : Request) : (s.dispatch k note q).dlp = s.dlp := by
  unfold State.dispatch
  split
  · rfl
  · split <;> simp

@[simp] theorem State.receive_dlp (k : Port) (x : Inbound) : (s.receive k x).dlp = s.dlp := by
  unfold State.receive State.dispatchFrame
  split
  · rfl
  · split <;> simp

@[simp] theorem State.request_dlp (k : Port) (t : Nat) (q : Request) : (s.request k t q).dlp = s.dlp := by
  simp [State.request]

@[simp] theorem State.completeSequence_dlp (raw : RawCounts) : (s.completeSequence raw).dlp = s.dlp := by
  unfold State.completeSequence State.warmStep
  dsimp only
  rw [State.reportHealth_dlp]
  split <;> split <;> rfl

@[simp] theorem State.endSave_dlp (v : Save) (ok : Bool) (done begun : Nat) : (s.endSave v ok done begun).dlp = s.dlp := by
  unfold State.endSave State.startPending State.tellSave
  split <;> split <;> rfl

@[simp] theorem State.loadModel_dlp (content : Option (List Byte)) : (s.loadModel content).dlp = s.dlp := by
  have hend : ∀ u before : State, (u.endLoading before).dlp = u.dlp := fun u before => (endLoading_spec rfl).2.2.2.2.1
  unfold State.loadModel
  split
  · exact hend s s
  · next c =>
    obtain ⟨tp, hinterrupt⟩ := interruptEpisode_keeps (s.restore (restoredOf c))
    rw [hend, hinterrupt]
    rfl

end

/-! ## Commands that leave the engine state -/

/-- A command that can change the engine state. -/
def movesEngine : Instr → Bool
  | .hardwareReset _ _ => true
  | .loopUpdate _ => true
  | _ => false

/-- What an effect keeps, a command with that effect keeps, whether reset is held or not. -/
theorem exec_keeps {α : Type} (field : State → α) {c : Instr} {f : State → State} {s u : State} (h : exec c s = .next u)
    (heffect : ∀ v, exec c v = whileRunning v f) (hf : field (f s) = field s) : field u = field s := by
  cases (heffect s).symm.trans h
  split
  · exact hf
  · rfl

/-- Every command but a hardware reset and a loop update keeps the engine state (R69). -/
theorem exec_engine {c : Instr} {s u : State} (hc : movesEngine c = false) (h : exec c s = .next u) : u.dlp.engine = s.dlp.engine := by
  let engine : State → Engine := fun v => v.dlp.engine
  cases c with
  | hardwareReset cause progress => cases hc
  | loopUpdate order => cases hc
  | resetRelease =>
    cases h
    split <;> rfl
  | siteLoad a => exact exec_keeps engine h (fun _ => rfl) (by split <;> rfl)
  | modelLoad t a => exact exec_keeps engine h (fun _ => rfl) (by dsimp only; split <;> simp [engine])
  | epoch =>
    refine exec_keeps engine h (fun _ => rfl) ?_
    obtain ⟨tp, hepoch⟩ := raiseEpoch_eq s
    rw [hepoch]
    rfl
  | autosave => exact exec_keeps engine h (fun _ => rfl) (by split <;> [split <;> rfl; rfl])
  | holdOffExpiry r =>
    refine exec_keeps engine h (fun _ => rfl) ?_
    split
    · exact congrArg Dlp.engine (RquFrame.finish (.expire (.refl s))).dlp
    · rfl
  | settlingExpiry => exact exec_keeps engine h (fun _ => rfl) (by split <;> rfl)
  | pulseArrival p t => exact exec_keeps engine h (fun _ => rfl) (congrArg Dlp.engine (RquFrame.pulse (.refl (s.advanceTo t))).dlp)
  | staleTimerExpiry k =>
    refine exec_keeps engine h (fun _ => rfl) ?_
    split
    · exact congrArg Dlp.engine (RquFrame.staleExpiry (.refl s)).dlp
    · rfl
  | pulseDue k => exact exec_keeps engine h (fun _ => rfl) (by split <;> rfl)
  | pulseEnd k => exact exec_keeps engine h (fun _ => rfl) (by split <;> [rfl; split <;> rfl])
  | attentionPulseEnd k => exact exec_keeps engine h (fun _ => rfl) (by split <;> [rfl; split <;> rfl])
  | vctlSample => exact exec_keeps engine h (fun _ => rfl) (by split <;> rfl)
  | sequenceComplete t raw => exact exec_keeps engine h (fun _ => rfl) (by dsimp only; split <;> simp [engine])
  | frameReceived k t bytes => exact exec_keeps engine h (fun _ => rfl) (by dsimp only; split <;> simp [engine])
  | saveEnd t clean => exact exec_keeps engine h (fun _ => rfl) (by split <;> simp [engine])
  | saveTimeout t progress => exact exec_keeps engine h (fun _ => rfl) (by dsimp only; split <;> simp [engine])
  | powerFailWarning => exact exec_keeps engine h (fun _ => rfl) (by split <;> [rfl; split <;> rfl; rfl])
  | slewTick _ | f1Edge _ | companionRecord _ _ | sensorSequenceStart | transactionStart _ | statusByteClockedOut _ =>
    exact exec_keeps engine h (fun _ => rfl) rfl
  | _ => -- the requests
    exact exec_keeps engine h (fun _ => rfl) (congrArg Dlp.engine (s.request_dlp _ _ _))

/-- Every command but a hardware reset and a loop update keeps the traceable flag (R10). -/
theorem TsuChange.traceable_eq {x y : Tsu} {c : Instr} (h : TsuChange x c y) (hc : movesEngine c = false) : y.traceable = x.traceable := by
  cases h with
  | reset cause progress => cases hc
  | derived order t cls bound => cases hc
  | stepped order t q cls bound => cases hc
  | moved c t => rfl
  | epoch => rfl

/-! ## What a decision is (R71) -/

/-- The ways an update decides. `w` is the part that a step or the arithmetic of an estimate starts from: the part as the loop finds it, or
with the episode closed. -/
inductive Decided (v : State) (x : LoopInput) : Decision → Prop
  | aligned (r : PhaseRef) (e : PhaseEstimate) (m : FreeMode) (hengine : v.dlp.engine = .freerun m) : Decided v x (v.align r e)
  | free (m : FreeMode) (hengine : v.dlp.engine = .freerun m) : Decided v x (v.decided (v.runFree x).count)
  | stepped (w : State) (d : Dlp) (r : PhaseRef) (e : PhaseEstimate) (hengine : inFreerun v.dlp.engine = false) (htsu : w.tsu = v.tsu)
      (hsite : w.site = v.site) : Decided v x (w.ordinaryStep d r e)
  | used (w : State) (d : Dlp) (r : PhaseRef) (e : PhaseEstimate) (locked : Bool) (delta : Nat) (hengine : inFreerun v.dlp.engine = false)
      (htsu : w.tsu = v.tsu) (hsite : w.site = v.site) (hends : d.engine = .locked r ∨ d.engine = .acquiring r) :
      Decided v x (w.decided (w.arith d r.kind locked delta e))
  | held (hengine : inFreerun v.dlp.engine = false) : Decided v x (v.decided (v.holdTerms v.dlp.count))
  | lost (f : PhaseRef) (hengine : inFreerun v.dlp.engine = false) : Decided v x (v.loseReference f x)
  | holding (m : HoldMode) (hengine : inFreerun v.dlp.engine = false) : Decided v x (v.runHoldover m x)

/-- An estimate followed is stepped or used (R83, R85 to R87). -/
theorem follow_decided (v : State) (x : LoopInput) (f r : PhaseRef) (e : PhaseEstimate) (h : inFreerun v.dlp.engine = false) :
    Decided v x (v.follow f r e) := by
  have hused : ∀ d locked delta, (d.engine = .locked r ∨ d.engine = .acquiring r) →
      Decided v x (v.decided (v.arith d r.kind locked delta e)) := fun d locked delta => .used v d r e locked delta h rfl rfl
  have hswitch : ∀ d, Decided v x (v.decided (v.switchTo d r e)) := fun d => by
    unfold State.switchTo
    extract_lets
    split
    · exact hused _ _ _ (.inl rfl)
    · exact hused _ _ _ (.inr rfl)
  have htrack : ∀ d, Decided v x (v.decided (v.track d r e)) := fun d => by
    unfold State.track
    extract_lets
    split
    · exact hused _ _ _ (.inr rfl)
    · exact hused _ _ _ (.inl rfl)
  have hacquire : ∀ d, Decided v x (v.decided (v.acquire d r e)) := fun d => by
    unfold State.acquire
    extract_lets
    split
    · exact hused _ _ _ (.inl rfl)
    · exact hused _ _ _ (.inr rfl)
  unfold State.follow
  dsimp only
  split
  · exact .stepped v _ r e h rfl rfl
  · split
    · exact hswitch _
    · split
      · exact htrack _
      · exact hacquire _

theorem decideFollowing_decided (v : State) (x : LoopInput) (f : PhaseRef) (h : inFreerun v.dlp.engine = false) :
    Decided v x (v.decideFollowing f x) := by
  unfold State.decideFollowing
  split
  · exact .lost f h
  · exact follow_decided v x f _ _ h
  · exact .held h

/-- An estimate in HOLDOVER is stepped or used once the episode is closed (R83, R91). -/
theorem regain_decided (v : State) (x : LoopInput) (r : PhaseRef) (e : PhaseEstimate) (h : inFreerun v.dlp.engine = false) :
    Decided v x (v.regain r e) := by
  obtain ⟨-, -, -, hsst, -, -, htsu, -⟩ := notice_hop { v with hop := v.hop.closeEpisode e.e } true
  unfold State.regain State.reacquire
  dsimp only
  split
  · exact .stepped _ _ r e h htsu (congrArg Sst.record hsst)
  · exact .used _ _ r e false 1 h htsu (congrArg Sst.record hsst) (.inr rfl)

/-- Every update decides in one of the ways of `Decided`. -/
theorem decideUpdate_decided (v : State) (x : LoopInput) : Decided v x (v.decideUpdate x) := by
  unfold State.decideUpdate
  split
  · next m hengine =>
    split
    · exact .aligned _ _ m hengine
    · exact .free m hengine
  · next f hengine => exact decideFollowing_decided v x f (by rw [hengine]; rfl)
  · next f hengine => exact decideFollowing_decided v x f (by rw [hengine]; rfl)
  · next m hengine =>
    split
    · exact regain_decided v x _ _ (by rw [hengine]; rfl)
    · exact .holding m (by rw [hengine]; rfl)

/-! ## The engine state and the traceable flag after a decision (R70) -/

/-- A sub-mode of FREERUN stays in FREERUN (R77). -/
theorem runFree_engine (v : State) (x : LoopInput) : (v.runFree x).engine = .freerun (v.freeMode x.f1) := by
  unfold State.runFree
  dsimp only
  split <;> rfl

/-- Where the engine state stays outside FREERUN and the flag as it was, they still agree. -/
theorem engineTraceable_of_outside {v u : State} (h : EngineTraceable v) (hv : inFreerun v.dlp.engine = false)
    (hu : inFreerun u.dlp.engine = false) (hflag : u.tsu.traceable = v.tsu.traceable) : EngineTraceable u := by
  rw [EngineTraceable, hu, hflag, ← h, hv]

/-- The alignment alone leaves FREERUN, and it makes the time scale traceable (R10, R70, R80). -/
theorem Decided.engineTraceable {v : State} {x : LoopInput} {r : Decision} (g : Decided v x r) (h : EngineTraceable v) :
    EngineTraceable r.st := by
  cases g with
  | aligned r e m hengine =>
    show false = !(v.tsu.traceable || true)
    rw [Bool.or_true]
    rfl
  | free m hengine =>
    rw [EngineTraceable, hengine] at h
    show inFreerun (v.runFree x).engine = _
    rw [runFree_engine]
    exact h
  | stepped w d r e hengine htsu =>
    exact engineTraceable_of_outside h hengine rfl ((Bool.or_false _).trans (congrArg Tsu.traceable htsu))
  | used w d r e locked delta hengine htsu hsite hends =>
    refine engineTraceable_of_outside h hengine ?_ (congrArg Tsu.traceable htsu)
    show inFreerun d.engine = false
    rcases hends with hends | hends <;> rw [hends] <;> rfl
  | held hengine => exact engineTraceable_of_outside h hengine hengine rfl
  | lost f hengine => exact engineTraceable_of_outside h hengine rfl (congrArg Tsu.traceable (loseReference_tsu v f x))
  | holding m hengine => exact engineTraceable_of_outside h hengine rfl (congrArg Tsu.traceable (runHoldover_tsu v m x))

/-- A loop update keeps the engine in FREERUN exactly while the time scale is untraceable (R70). -/
theorem loopUpdate_engineTraceable (s : State) (order : List UpdatePart) (hrunning : s.running = true) (h : EngineTraceable s) :
    ∃ u, exec (.loopUpdate order) s = .next u ∧ EngineTraceable u := by
  obtain ⟨u, v, hexec, hframe, rfl, hdlp, -, -, htsu, -⟩ := update_decided s order hrunning
  refine ⟨u, hexec, ?_⟩
  have hfound : EngineTraceable (atLoop order s).spendEstimates := by
    rw [EngineTraceable, hframe.dlp, hframe.tsu]
    exact h
  rw [EngineTraceable, hdlp, htsu]
  exact (decideUpdate_decided _ _).engineTraceable hfound

/-- Every command keeps the engine in FREERUN exactly while the time scale is untraceable (R70). -/
theorem exec_engineTraceable {c : Instr} {s u : State} (h : EngineTraceable s) (hexec : exec c s = .next u) : EngineTraceable u := by
  cases hc : movesEngine c with
  | false =>
    rw [EngineTraceable, exec_engine hc hexec, (exec_tsuChange hexec).traceable_eq hc]
    exact h
  | true =>
    cases c with
    | hardwareReset cause progress =>
      cases hexec
      rfl
    | loopUpdate order =>
      cases hrunning : s.running with
      | true =>
        obtain ⟨u', hexec', hsound⟩ := loopUpdate_engineTraceable s order hrunning h
        cases hexec'.symm.trans hexec
        exact hsound
      | false =>
        obtain ⟨f, heffect⟩ := exec_whileRunning (.loopUpdate order) rfl rfl
        rw [heffect, whileRunning_held s f hrunning] at hexec
        cases hexec
        exact h
    | _ => cases hc

end Sys2Proof.Machine
end

section
/-! SUPPORT. The output of a loop update and what the Steering DAC makes of it (R75, R92, R142). -/

namespace Sys2Proof.Machine

open Sys2Proof Sys2Proof.Safety

/-! ## Settings in range (R184) -/

/-- Every value of a record in range lies in the range of its setting. -/
theorem val_inRange (r : SiteRecord) (h : r.inRange = true) (x : Setting) : x.range.1 ≤ r.val x ∧ r.val x ≤ x.range.2 := by
  rw [SiteRecord.inRange, Bool.and_eq_true, List.all_eq_true] at h
  exact (admits_iff x _).1 (h.2 x (mem_settings x))

/-! ## The pull range (R75, R92) -/

/-- The frequency that the restored model gives lies within the pull range. -/
theorem natAbs_modelFrequency_le (v : State) (h : 0 ≤ v.pull) : (v.modelFrequency.natAbs : Int) ≤ v.pull := by
  unfold State.modelFrequency
  split
  · exact h
  · exact natAbs_clampAbs_le _ _ h

theorem natAbs_runFree_fOut_le (v : State) (x : LoopInput) (h : 0 ≤ v.pull) : ((v.runFree x).fOut.natAbs : Int) ≤ v.pull := by
  unfold State.runFree
  dsimp only
  split
  · exact h
  · exact natAbs_modelFrequency_le v h
  · exact natAbs_clampAbs_le _ _ h

theorem natAbs_enterHoldover_le (v : State) (e : Entry) (d : Option Int) (h : 0 ≤ v.pull) :
    ((v.enterHoldover e d).2.natAbs : Int) ≤ v.pull := by
  unfold State.enterHoldover State.enterSteering
  dsimp only
  split <;> exact natAbs_clampAbs_le _ _ h

theorem natAbs_holdoverUpdate_le (v : State) (old new : HoldMode) (f : Int) (d : Option Int) (h : 0 ≤ v.pull) :
    ((v.holdoverUpdate old new f d).2.natAbs : Int) ≤ v.pull := by
  unfold State.holdoverUpdate
  dsimp only
  split
  · split <;> exact natAbs_clampAbs_le _ _ h
  · exact natAbs_clampAbs_le _ _ h

/-- Every decision hands on an f_out within the pull range in force. -/
theorem Decided.natAbs_fOut_le {v : State} {x : LoopInput} {r : Decision} (g : Decided v x r) (h : 0 ≤ v.pull) :
    (r.st.dlp.fOut.natAbs : Int) ≤ v.pull := by
  have hclamped : ∀ (w : State) (i p : Int), w.site = v.site → ((loopOutput w.pull i p).natAbs : Int) ≤ v.pull := fun w i p hsite => by
    rw [State.pull, hsite]
    exact natAbs_clampAbs_le _ _ h
  cases g with
  | aligned r e m hengine => exact hclamped v _ _ rfl
  | free m hengine => exact natAbs_runFree_fOut_le v x h
  | stepped w d r e hengine htsu hsite => exact hclamped w _ _ hsite
  | used w d r e locked delta hengine htsu hsite hends => exact hclamped w _ _ hsite
  | held hengine => exact hclamped v _ _ rfl
  | lost f hengine => exact natAbs_enterHoldover_le v.closeOpenBin _ _ h
  | holding m hengine => exact natAbs_holdoverUpdate_le v m _ _ _ h

/-! ## The DAC (R142) -/

/-- What the DAC takes of an f_out: where the centre code is a code, the limit cuts only a correction that has a sign. -/
theorem take_eq (d : Sdc) (r : SiteRecord) (f : Int) (hlow : 0 ≤ r.val .centre) (hhigh : r.val .centre ≤ 1048575) : d.take r f =
    { d with
      target := (max 0 (min 1048575 (unclampedTarget r f))).toNat
      atLimit := if 0 ≤ unclampedTarget r f ∧ unclampedTarget r f ≤ 1048575 then .clear else if 0 < f then .plus else .minus } := by
  have hmax : (Config.maxCode : Int) = 1048575 := rfl
  have hcentre : f = 0 → unclampedTarget r f = r.val .centre := fun hzero => by
    simp [unclampedTarget, hzero, nearest_zero]
  have hsign : f ≠ 0 → limitSign f = if 0 < f then .plus else .minus := fun hne => by
    unfold limitSign
    split
    · rfl
    · exact if_pos (by omega)
  unfold Sdc.take
  generalize unclampedTarget r f = t at *
  dsimp only
  rw [hmax]
  split
  · next hbelow =>
    rw [if_neg (by omega), hsign (fun hzero => by have := hcentre hzero; omega), show max 0 (min 1048575 t) = 0 by omega]
    rfl
  · split
    · next habove =>
      rw [if_neg (by omega), hsign (fun hzero => by have := hcentre hzero; omega), show max 0 (min 1048575 t) = 1048575 by omega]
      rfl
    · rw [if_pos (by omega), show max 0 (min 1048575 t) = t by omega]

end Sys2Proof.Machine
end

section
/-! SUPPORT. What each decision of a loop update makes of the loop's record, in the terms of the statements: `v` is the part as the loop finds
it, `s` the part before the samples that come first (sections 4.3, 4.4 and 4.7). -/

namespace Sys2Proof.Machine

open Sys2Proof Sys2Proof.Safety

/-! ## From the decision to the update -/

/-- The loop's record after an update is the decision's. -/
theorem update_dlp (s : State) (order : List UpdatePart) (h : s.running = true) :
    ∃ u, exec (.loopUpdate order) s = .next u ∧ u.dlp = (s.updateDecision order).st.dlp := by
  obtain ⟨u, v, hexec, -, rfl, hdlp, -⟩ := update_decided s order h
  exact ⟨u, hexec, hdlp⟩

/-- An update in LOCKED or ACQUIRING whose selected reference has no estimate to use holds the terms (R76). -/
theorem decideUpdate_hold (v : State) (f r : PhaseRef) (x : LoopInput) (h : v.dlp.engine = .locked f ∨ v.dlp.engine = .acquiring f)
    (hselected : x.selected = some r) (hnone : x.estimate = none) : v.decideUpdate x = v.decided (v.holdTerms v.dlp.count) := by
  rcases h with h | h <;> simp only [State.decideUpdate, h, State.decideFollowing, hselected, hnone]

/-- An update in FREERUN without an estimate runs its sub-mode (R76 to R79). -/
theorem decideUpdate_free (v : State) (m : FreeMode) (x : LoopInput) (h : v.dlp.engine = .freerun m) (hnone : x.estimate = none) :
    v.decideUpdate x = v.decided (v.runFree x).count := by
  unfold State.decideUpdate
  rw [h, hnone]
  cases x.selected <;> rfl

/-- An update's decision leaves the DAC (R71). -/
theorem decideUpdate_sdc (v : State) (x : LoopInput) : (v.decideUpdate x).st.sdc = v.sdc := by
  obtain ⟨-, hkept⟩ := decideUpdate_keeps v x
  rw [hkept]

/-! ## An estimate used (R72 to R75, R83, R85 to R87) -/

theorem interval_eq (d : Dlp) (k : PhaseKind) : d.interval k = intervalOf d k := by cases k <;> rfl

theorem arith_eq (v s : State) (hsite : v.site = s.site) (hsdc : v.sdc = s.sdc) (d : Dlp) (k : PhaseKind) (locked : Bool) (delta : Nat)
    (x : PhaseEstimate) : v.arith d k locked delta x =
      estimateUsed s d (if locked then s.site.nat (.bandwidth k) else max 3 (s.site.nat (.bandwidth k) - 2)) delta x := by
  unfold State.arith State.exponent
  rw [useEstimate_eq v s hsite hsdc, hsite]

/-- The record after an estimate of `r` is used with the site's exponent, in LOCKED. -/
def usedLocked (s : State) (d : Dlp) (r : PhaseRef) (x : PhaseEstimate) (lockRun unlockRun : Nat) : Dlp :=
  { estimateUsed s d (s.site.nat (.bandwidth r.kind)) (intervalOf d r.kind) x with
    engine := .locked r, lockRun := lockRun, unlockRun := unlockRun }

/-- The record after an estimate of `r` is used with the acquisition exponent, in ACQUIRING. -/
def usedAcquiring (s : State) (d : Dlp) (r : PhaseRef) (x : PhaseEstimate) (lockRun unlockRun : Nat) : Dlp :=
  { estimateUsed s d (max 3 (s.site.nat (.bandwidth r.kind) - 2)) (intervalOf d r.kind) x with
    engine := .acquiring r, lockRun := lockRun, unlockRun := unlockRun }

section

variable {v s : State} (hsite : v.site = s.site) (hsdc : v.sdc = s.sdc) (d : Dlp) (r : PhaseRef) (x : PhaseEstimate)

include hsite hsdc

/-- The first estimate of a newly selected reference in LOCKED (R87). -/
theorem switchTo_locked (hlocked : d.engine.isLocked = true) : v.switchTo d r x =
    if x.e.natAbs ≤ 1000 * s.site.nat (.lockThreshold r.kind) then usedLocked s d r x d.lockRun 0 else usedAcquiring s d r x 0 0 := by
  unfold State.switchTo State.lockThreshold
  simp only [arith_eq v s hsite hsdc, interval_eq, hsite, hlocked, Bool.and_true, decide_eq_true_eq]
  split <;> rfl

/-- The first estimate of a newly selected reference in ACQUIRING (R87; log entry 32). -/
theorem switchTo_acquiring (hlocked : d.engine.isLocked = false) : v.switchTo d r x =
    usedAcquiring s d r x (if x.e.natAbs ≤ 1000 * s.site.nat (.lockThreshold r.kind) then 1 else 0) 0 := by
  unfold State.switchTo State.lockThreshold
  simp only [arith_eq v s hsite hsdc, interval_eq, hsite, hlocked, Bool.and_false, Bool.false_eq_true, if_false, decide_eq_true_eq]
  rfl

/-- An estimate used in LOCKED, tested toward unlock (R86). -/
theorem track_eq : v.track d r x =
    if x.e.natAbs ≤ 4 * (1000 * s.site.nat (.lockThreshold r.kind)) then usedLocked s d r x d.lockRun 0
    else if d.unlockRun + 1 < 4 then usedLocked s d r x d.lockRun (d.unlockRun + 1)
    else usedAcquiring s d r x 0 0 := by
  unfold State.track State.lockThreshold
  simp only [arith_eq v s hsite hsdc, interval_eq, hsite]
  by_cases hnear : x.e.natAbs ≤ 4 * (1000 * s.site.nat (.lockThreshold r.kind))
  · simp only [if_pos hnear, if_neg (show ¬4 * (1000 * s.site.nat (.lockThreshold r.kind)) < x.e.natAbs by omega)]
    rfl
  · simp only [if_neg hnear, if_pos (show 4 * (1000 * s.site.nat (.lockThreshold r.kind)) < x.e.natAbs by omega)]
    by_cases hrun : d.unlockRun + 1 < 4
    · rw [if_pos hrun, if_neg (by omega)]
      rfl
    · rw [if_neg hrun, if_pos (by omega)]
      rfl

/-- An estimate used in ACQUIRING, tested toward lock (R85). -/
theorem acquire_eq : v.acquire d r x =
    let run := if x.e.natAbs ≤ 1000 * s.site.nat (.lockThreshold r.kind) then min 65535 (d.lockRun + 1) else 0
    if s.site.nat (.lockCount r.kind) ≤ run then usedLocked s d r x 0 0 else usedAcquiring s d r x run d.unlockRun := by
  unfold State.acquire State.lockThreshold
  simp only [arith_eq v s hsite hsdc, interval_eq, hsite, satSucc_eq_min]
  rfl

omit hsdc in
/-- An estimate followed and not stepped, by the engine state and the reference followed before. -/
theorem follow_used (f : PhaseRef) (hused : ¬((v.dlp.firstEstimate = true ∨ r ≠ f) ∧ StepsOut s x)) :
    let d := { v.dlp with firstEstimate := v.dlp.firstEstimate || decide (r ≠ f) }
    v.follow f r x = v.decided (if r ≠ f then v.switchTo d r x else if v.dlp.engine.isLocked then v.track d r x else v.acquire d r x) := by
  intro d
  have hnone : ¬v.steps d x = true := fun hsteps => by
    obtain ⟨hflag, hout⟩ := (steps_iff v s hsite d x).1 hsteps
    exact hused ⟨by simpa [d] using hflag, hout⟩
  unfold State.follow
  dsimp only
  rw [if_neg hnone]
  split_ifs <;> rfl

/-- An estimate followed in LOCKED and not stepped (R86, R87). -/
theorem follow_locked (f : PhaseRef) (hlocked : v.dlp.engine.isLocked = true)
    (hused : ¬((v.dlp.firstEstimate = true ∨ r ≠ f) ∧ StepsOut s x)) :
    let threshold := 1000 * s.site.nat (.lockThreshold r.kind)
    v.follow f r x = v.decided
      (if r ≠ f then
        (if x.e.natAbs ≤ threshold then usedLocked s v.dlp r x v.dlp.lockRun 0 else usedAcquiring s v.dlp r x 0 0)
      else if x.e.natAbs ≤ 4 * threshold then usedLocked s v.dlp r x v.dlp.lockRun 0
      else if v.dlp.unlockRun + 1 < 4 then usedLocked s v.dlp r x v.dlp.lockRun (v.dlp.unlockRun + 1)
      else usedAcquiring s v.dlp r x 0 0) := by
  rw [follow_used hsite r x f hused, if_pos hlocked, switchTo_locked hsite hsdc, track_eq hsite hsdc]
  · rfl
  · exact hlocked

/-- An estimate followed in ACQUIRING and not stepped (R85, R87). -/
theorem follow_acquiring (f : PhaseRef) (hlocked : v.dlp.engine.isLocked = false)
    (hused : ¬((v.dlp.firstEstimate = true ∨ r ≠ f) ∧ StepsOut s x)) :
    let near := x.e.natAbs ≤ 1000 * s.site.nat (.lockThreshold r.kind)
    let run := if near then min 65535 (v.dlp.lockRun + 1) else 0
    v.follow f r x = v.decided
      (if r ≠ f then usedAcquiring s v.dlp r x (if near then 1 else 0) 0
      else if s.site.nat (.lockCount r.kind) ≤ run then usedLocked s v.dlp r x 0 0
      else usedAcquiring s v.dlp r x run v.dlp.unlockRun) := by
  rw [follow_used hsite r x f hused, if_neg (Bool.eq_false_iff.1 hlocked), switchTo_acquiring hsite hsdc, acquire_eq hsite hsdc]
  · rfl
  · exact hlocked

end

/-! ## No estimate used (R76 to R79) -/

theorem holdTerms_eq {v s : State} (hsite : v.site = s.site) (d : Dlp) : v.holdTerms d =
    { d with
      integral := clampAbs (256 * s.site.val .pullRange) d.integral, prop := clampAbs (s.site.val .slewLimit) d.prop
      fOut := clampAbs (s.site.val .pullRange)
        (nearest (clampAbs (256 * s.site.val .pullRange) d.integral) 256 + clampAbs (s.site.val .slewLimit) d.prop) } := by
  unfold State.holdTerms loopOutput State.pull State.slewLimit
  rw [hsite]

/-- The count of updates since an estimate, raised (R72). -/
theorem count_eq (d : Dlp) : d.count = { d with sinceEstimate := min 64 (d.sinceEstimate + 1) } := by
  rw [Dlp.count, satSucc_eq_min]

theorem frequencyIntegral_eq {v s : State} (hsite : v.site = s.site) (hsdc : v.sdc = s.sdc) (i : Int) (d : Option Int) :
    v.frequencyIntegral i d = assistedAfter s 0 i d := by
  cases d with
  | none => simp only [State.frequencyIntegral, State.pull, hsite, assistedAfter]
  | some d => simp only [State.frequencyIntegral, integrate_eq v s hsite hsdc, hsite, f1Increment, assistedAfter, sub_zero]

theorem modelTemp_eq (v : State) (b : Bin) : v.modelTemp b = temperatureOf v.lrn.model v.toscAlarm v.tosc (some b.temp) := by
  unfold State.modelTemp temperatureOf
  cases v.tosc with
  | none => rfl
  | some t =>
    cases hnow : (v.lrn.model.lookup v.toscAlarm t).value <;> cases hbin : (v.lrn.model.lookup v.toscAlarm b.temp).value <;>
      simp [hnow, hbin]

section

variable (v : State) (x : LoopInput)

/-- FREQUENCY: F1 is available (R77, R79). -/
theorem runFree_frequency (h : x.f1 = true) : v.runFree x = { v.dlp with
    engine := .freerun .frequency, prop := 0, integral := v.frequencyIntegral v.dlp.integral x.offset
    fOut := loopOutput v.pull (v.frequencyIntegral v.dlp.integral x.offset) 0 } := by
  simp only [State.runFree, State.freeMode, h, if_true, LoopInput.steering]

/-- UNSTEERED: F1 is not available, and there is no bin (R77). -/
theorem runFree_unsteered (h : x.f1 = false) (hempty : v.lrn.model.history.getLast? = none) : v.runFree x = { v.dlp with
    engine := .freerun .unsteered, prop := 0, integral := 0, fOut := 0 } := by
  rw [List.getLast?_eq_none_iff] at hempty
  simp only [State.runFree, State.freeMode, h, hempty, List.isEmpty_nil, if_true, Bool.false_eq_true, if_false]

/-- MODEL: F1 is not available, and there is a bin (R77, R78). -/
theorem runFree_model (b : Bin) (h : x.f1 = false) (hbin : v.lrn.model.history.getLast? = some b) : v.runFree x =
    let f := clampAbs v.pull (b.freq + temperatureOf v.lrn.model v.toscAlarm v.tosc (some b.temp))
    { v.dlp with engine := .freerun .model, prop := 0, integral := 256 * f, fOut := f } := by
  have hsome : v.lrn.model.history.isEmpty = false := by
    cases hhistory : v.lrn.model.history with
    | nil => rw [hhistory] at hbin; cases hbin
    | cons a l => rfl
  have hfrequency : v.modelFrequency = clampAbs v.pull (b.freq + temperatureOf v.lrn.model v.toscAlarm v.tosc (some b.temp)) := by
    simp only [State.modelFrequency, Model.newest, hbin, modelTemp_eq]
  simp only [State.runFree, State.freeMode, h, hsome, Bool.false_eq_true, if_false, hfrequency]

end

end Sys2Proof.Machine
end

section
/-! SUPPORT. HOLDOVER at a loop update: the entry with its episode, a later update, and the exit (sections 4.8, 6.2 to 6.5 and 6.8). -/

namespace Sys2Proof.Machine

open Sys2Proof Sys2Proof.Safety

/-! ## The decision in HOLDOVER and into it -/

/-- An update in LOCKED or ACQUIRING that finds no reference selected enters HOLDOVER (R88). -/
theorem decideUpdate_lose (v : State) (f : PhaseRef) (x : LoopInput) (h : v.dlp.engine = .locked f ∨ v.dlp.engine = .acquiring f)
    (hnone : x.selected = none) : v.decideUpdate x = v.loseReference f x := by
  rcases h with h | h <;> simp only [State.decideUpdate, h, State.decideFollowing, hnone]

/-- An update in HOLDOVER without an estimate goes on (R90). -/
theorem decideUpdate_holding (v : State) (m : HoldMode) (x : LoopInput) (h : v.dlp.engine = .holdover m) (hnone : x.estimate = none) :
    v.decideUpdate x = v.runHoldover m x := by
  unfold State.decideUpdate
  rw [h, hnone]
  cases x.selected <;> rfl

/-- An update in HOLDOVER that may use an estimate leaves it (R91). -/
theorem decideUpdate_regain (v : State) (m : HoldMode) (r : PhaseRef) (e : PhaseEstimate) (f1 : Bool) (offset : Option Int)
    (h : v.dlp.engine = .holdover m) : v.decideUpdate ⟨some r, some e, f1, offset⟩ = v.regain r e := by
  simp only [State.decideUpdate, h]

/-! ## ASSISTED (R129) -/

theorem assistedIntegral_eq {v s : State} (hsite : v.site = s.site) (hsdc : v.sdc = s.sdc) (i : Int) (d : Option Int) :
    v.assistedIntegral i d = assistedAfter s v.lrn.model.f1Bias i d := by
  cases d with
  | none => simp only [State.assistedIntegral, State.pull, hsite, assistedAfter]
  | some d => simp only [State.assistedIntegral, integrate_eq v s hsite hsdc, hsite, f1Increment, assistedAfter]

/-- While F1 is available its offset steers (R79, R129). -/
theorem steering_of_qualified (s : State) (d : Option Int) (h : (s.record .f1).state = .qualified) : (s.readLoop d).steering = d :=
  if_pos ((f1Available_eq s).trans (decide_eq_true h))

/-! ## Entry (R118 to R121) -/

/-- What the entry leaves beside the queues is the Predictor's. -/
theorem enterHoldover_keeps (w : State) (e : Entry) (d : Option Int) : ∃ tp, (w.enterHoldover e d).1 =
    { w with hop := (w.enterHoldover e d).1.hop, tp := tp } := by
  have hnotice : ∀ (v : State) (closed : Bool), ∃ tp, v.noticeEpisode closed = { v with tp := tp } := fun v closed => by
    unfold State.noticeEpisode
    split <;> exact ⟨_, rfl⟩
  obtain ⟨tp, h⟩ := hnotice ((w.openEpisode e).enterSteering e d).1 false
  refine ⟨tp, ?_⟩
  unfold State.enterHoldover
  dsimp only
  rw [h]
  unfold State.enterSteering
  split <;> rfl

/-- Choosing the base changes the base alone. -/
theorem chooseBase_keeps (w : State) (i : Int) : w.chooseBase i = { w.hop with
    baseSource := (w.chooseBase i).baseSource, f0 := (w.chooseBase i).f0, baseTime := (w.chooseBase i).baseTime
    baseTemp := (w.chooseBase i).baseTemp, eBase := (w.chooseBase i).eBase } := by
  unfold State.chooseBase
  dsimp only
  split
  · rfl
  · split <;> rfl

/-- The base chosen at entry is the newest bin where that serves, else the loop as it stands (R119). -/
theorem chooseBase_base (w : State) (i : Int) :
    let c := w.chooseBase i
    let live := (BaseSource.live, nearest i 256, w.tsu.seconds, w.tosc, 16)
    (c.baseSource, c.f0, c.baseTime, c.baseTemp, c.eBase) =
      match w.lrn.model.history.getLast? with
      | none => live
      | some b =>
        if b.disturbed = false ∧ 0 ≤ secDiff w.tsu.seconds b.finish ∧ secDiff w.tsu.seconds b.finish ≤ 3600 then
          (BaseSource.bin, nearest b.mean 16, b.centre, some b.temp, max 2 ((b.spread + 3) / 4))
        else live := by
  unfold State.chooseBase Model.newest
  cases w.lrn.model.history.getLast? with
  | none => rfl
  | some b =>
    have hserves : w.servesAsBase b = true ↔
        b.disturbed = false ∧ 0 ≤ secDiff w.tsu.seconds b.finish ∧ secDiff w.tsu.seconds b.finish ≤ 3600 := by
      simp [State.servesAsBase]
    dsimp only
    simp only [hserves, spread_eq]
    split <;> rfl

/-- An entry changes the base, the integral and the terms, and forms the bound (R118, R121, R128). -/
theorem enterSteering_hop (o : State) (e : Entry) (d : Option Int) : ∃ source f0 baseTime baseTemp eBase integral terms,
    (o.enterSteering e d).1.hop = { o.hop with
      baseSource := source, f0 := f0, baseTime := baseTime, baseTemp := baseTemp, eBase := eBase, integral := integral, terms := terms
      bound := boundOf o.hop.uncertainty o.hop.scoreInUse } := by
  unfold State.enterSteering
  split
  · rw [chooseBase_keeps]
    exact ⟨_, _, _, _, _, _, _, rfl⟩
  · exact ⟨_, _, _, _, _, _, _, rfl⟩

/-- The uncertainty of an episode at its entry, from the state left (R120). -/
theorem entryUncertainty_eq (w : State) (e : Entry) : w.entryUncertainty e = min 16000000000000
    (if e.fromLocked = true then 16 * (1000 * w.site.nat (.lockedUncertainty e.kind))
     else 16 * (e.lastE.natAbs + 1000 * w.site.nat (.lockThreshold e.kind))) := by
  rw [State.entryUncertainty, limitUncertainty, Nat.min_comm, Nat.mul_assoc]
  rfl

/-- The sub-mode of HOLDOVER that F1 gives at an update (R88, R90). -/
theorem holdModeOf_read (s : State) (d : Option Int) :
    holdModeOf (s.readLoop d).f1 = if (s.record .f1).state = .qualified then .assisted else .predicted := by
  show holdModeOf s.f1Available = _
  simp only [holdModeOf, f1Available_eq, decide_eq_true_eq]

/-- The part with the open bin closed and the episode opened that a lost selection begins (R88, R95, R118). -/
def State.episodeOpened (v : State) (f : PhaseRef) (x : LoopInput) : State := v.closeOpenBin.openEpisode (v.entryOf f x)

/-- The entry's steering of the episode opened (R118). -/
def State.entrySteered (v : State) (f : PhaseRef) (x : LoopInput) : State × Int :=
  (v.episodeOpened f x).enterSteering (v.entryOf f x) x.steering

/-- The episode opened, with its uncertainty from the state left (R118, R120). -/
theorem episodeOpened_hop (v : State) (f : PhaseRef) (x : LoopInput) : (v.episodeOpened f x).hop = { v.hop with
    isOpen := true, episodes := (v.newEpisode (v.entryOf f x) :: v.hop.episodes).take 16
    nextNumber := if v.hop.nextNumber < 65535 then v.hop.nextNumber + 1 else 1
    time := 0, modelCleared := false, scoreInUse := v.hop.score
    uncertainty := min 16000000000000
      (if v.dlp.engine.isLocked = true then 16 * (1000 * v.site.nat (.lockedUncertainty f.kind))
       else 16 * (v.dlp.lastE.natAbs + 1000 * v.site.nat (.lockThreshold f.kind))) } :=
  congrArg (fun u : Nat => { (v.episodeOpened f x).hop with uncertainty := u }) (entryUncertainty_eq v.closeOpenBin (v.entryOf f x))

/-- The Predictor after an entry: the episode opened, with its bound, whatever the steering chose (R118, R121, R128). -/
theorem entrySteered_hop (v : State) (f : PhaseRef) (x : LoopInput) : ∃ source f0 baseTime baseTemp eBase integral terms,
    let o := (v.episodeOpened f x).hop
    (v.entrySteered f x).1.hop = { o with
      baseSource := source, f0 := f0, baseTime := baseTime, baseTemp := baseTemp, eBase := eBase, integral := integral, terms := terms
      bound := (o.uncertainty * o.scoreInUse + 255999) / 256000 } := by
  obtain ⟨source, f0, baseTime, baseTemp, eBase, integral, terms, hsteered⟩ :=
    enterSteering_hop (v.episodeOpened f x) (v.entryOf f x) x.steering
  rw [ceil_bound] at hsteered
  exact ⟨source, f0, baseTime, baseTemp, eBase, integral, terms, hsteered⟩

/-- An entry in PREDICTED: the base, the integral kept, and f_out from the base with aging and temperature (R119, R121 to R124, R134). -/
theorem entrySteered_predicted (v : State) (f : PhaseRef) (x : LoopInput) (h : holdModeOf x.f1 = .predicted) :
    let r := v.entrySteered f x
    let model := v.closeOpenBin.lrn.model
    let live := (BaseSource.live, nearest v.integralInRange 256, v.tsu.seconds, v.tosc, 16)
    (r.1.hop.baseSource, r.1.hop.f0, r.1.hop.baseTime, r.1.hop.baseTemp, r.1.hop.eBase) =
      (match model.history.getLast? with
      | none => live
      | some b =>
        if b.disturbed = false ∧ 0 ≤ secDiff v.tsu.seconds b.finish ∧ secDiff v.tsu.seconds b.finish ≤ 3600 then
          (BaseSource.bin, nearest b.mean 16, b.centre, some b.temp, max 2 ((b.spread + 3) / 4))
        else live) ∧
    r.1.hop.integral = clampAbs (256 * v.pull) v.hop.integral ∧
    r.2 = clampAbs v.pull (r.1.hop.f0 + agingOf model v.tsu.seconds r.1.hop.baseTime +
      temperatureOf model v.toscAlarm v.tosc r.1.hop.baseTemp) := by
  have hmode : (v.entryOf f x).mode = .predicted := h
  unfold State.entrySteered State.enterSteering
  rw [hmode]
  refine ⟨chooseBase_base (v.episodeOpened f x) v.integralInRange, rfl, ?_⟩
  dsimp only
  rw [State.holdFrequency, tempTerm_eq, agingTerm_eq]
  rfl

/-- An entry in ASSISTED: no base, and f_out from the integral that F1 steers (R121, R129). -/
theorem entrySteered_assisted (v : State) (f : PhaseRef) (x : LoopInput) (h : holdModeOf x.f1 = .assisted) :
    let r := v.entrySteered f x
    r.1.hop.baseSource = .none ∧ r.1.hop.integral = v.closeOpenBin.assistedIntegral v.integralInRange x.steering ∧
    r.2 = clampAbs v.pull (nearest r.1.hop.integral 256) := by
  have hmode : (v.entryOf f x).mode = .assisted := h
  unfold State.entrySteered State.enterSteering
  rw [hmode]
  refine ⟨rfl, rfl, ?_⟩
  dsimp only
  rw [loopOutput, Int.add_zero]
  rfl

/-- The entry to HOLDOVER: the open bin closed, the episode opened and steered, the loop's record, and the queues (R88, R95). -/
theorem loseReference_st (v : State) (f : PhaseRef) (x : LoopInput) : ∃ tp, (v.loseReference f x).st =
    { v.closeOpenBin with
      dlp := { v.dlp.count with
        engine := .holdover (holdModeOf x.f1), integral := v.integralInRange, prop := 0, fOut := (v.entrySteered f x).2, lockRun := 0
        unlockRun := 0, settling := none, firstEstimate := false }
      hop := (v.entrySteered f x).1.hop
      tp := tp } := by
  obtain ⟨tp, hkept⟩ := enterHoldover_keeps v.closeOpenBin (v.entryOf f x) x.steering
  have hhop : (v.closeOpenBin.enterHoldover (v.entryOf f x) x.steering).1.hop = (v.entrySteered f x).1.hop := (notice_hop _ false).1
  refine ⟨tp, ?_⟩
  unfold State.loseReference State.decided
  dsimp only
  rw [hkept, hhop]
  rfl

/-- An update that loses the selection: the loop's record, the episode as it is steered, the model, and the bound (R88, R93). -/
theorem update_enters (s : State) (order : List UpdatePart) (f : PhaseRef) (h : s.running = true)
    (hengine : s.dlp.engine = .locked f ∨ s.dlp.engine = .acquiring f) (hnone : (atLoop order s).rqu.selected = none) :
    let v := (atLoop order s).spendEstimates
    let x := (atLoop order s).readLoop (gateOffset s)
    let r := v.entrySteered f x
    ∃ u, exec (.loopUpdate order) s = .next u ∧
      u.dlp = { s.dlp.count with
        engine := .holdover (holdModeOf x.f1), integral := v.integralInRange, prop := 0, fOut := r.2, lockRun := 0
        unlockRun := 0, settling := none, firstEstimate := false } ∧
      u.hop = { r.1.hop with epochs := 0 } ∧ u.lrn.model = v.closeOpenBin.lrn.model ∧ u.tsu.bound = r.1.hop.bound := by
  intro v x r
  obtain ⟨u, w, hexec, hframe, rfl, hdlp, hhop, -, htsu, hlrn⟩ := update_decided s order h
  obtain ⟨tp, hst⟩ := loseReference_st v f x
  have hdecision : (atLoop order s).spendEstimates.decideUpdate ((atLoop order s).readLoop (gateOffset s)) = v.loseReference f x :=
    decideUpdate_lose _ f x (hframe.dlp ▸ hengine) hnone
  rw [hdecision] at hdlp hhop htsu hlrn
  refine ⟨u, hexec, ?_, ?_, ?_, ?_⟩
  · rw [hdlp, hst, hframe.dlp]
    rfl
  · rw [hhop, hst]
  · rw [hlrn, handOn_model _ _ _ (by rw [hst]; rfl) (by rw [hst]; exact closeBin_open _ _), hst]
  · rw [htsu, hst]
    rfl

/-! ## Later updates (R127 to R132) -/

/-- What a later update leaves of the part is the Predictor's. -/
theorem holdoverUpdate_keeps (v : State) (old new : HoldMode) (f : Int) (d : Option Int) :
    (v.holdoverUpdate old new f d).1 = { v with hop := (v.holdoverUpdate old new f d).1.hop } := by
  cases new with
  | predicted => cases old <;> rfl
  | assisted => rfl

/-- A later update in HOLDOVER: the loop's record and the Predictor (R90, R93). -/
theorem runHoldover_st (v : State) (m : HoldMode) (x : LoopInput) :
    let r := v.holdoverUpdate m (holdModeOf x.f1) v.dlp.fOut x.steering
    (v.runHoldover m x).st = { v with
      dlp := { v.dlp.count with
        engine := .holdover (holdModeOf x.f1), integral := v.integralInRange, prop := 0, fOut := r.2, lockRun := 0, unlockRun := 0 }
      hop := r.1.hop } := by
  unfold State.runHoldover State.decided
  dsimp only
  rw [holdoverUpdate_keeps]

/-- An update that stays in HOLDOVER: the loop's record, the Predictor, and the model where no bin is open (R90, R93). -/
theorem update_holds (s : State) (order : List UpdatePart) (m : HoldMode) (h : s.running = true) (hengine : s.dlp.engine = .holdover m)
    (hnone : NoneUsable (atLoop order s)) :
    let v := (atLoop order s).spendEstimates
    let x := (atLoop order s).readLoop (gateOffset s)
    let r := v.holdoverUpdate m (holdModeOf x.f1) s.dlp.fOut x.steering
    ∃ u, exec (.loopUpdate order) s = .next u ∧
      u.dlp = { s.dlp.count with
        engine := .holdover (holdModeOf x.f1), integral := v.integralInRange, prop := 0, fOut := r.2, lockRun := 0, unlockRun := 0 } ∧
      u.hop = { r.1.hop with epochs := 0 } ∧ (s.lrn.openBin = none → u.lrn.model = s.lrn.model) := by
  intro v x r
  obtain ⟨u, w, hexec, hframe, rfl, hdlp, hhop, -, -, hlrn⟩ := update_decided s order h
  obtain ⟨-, -, hrecord, -, hlearned, -⟩ := frame_site hframe
  have hst := runHoldover_st v m x
  have hdecision : (atLoop order s).spendEstimates.decideUpdate ((atLoop order s).readLoop (gateOffset s)) = v.runHoldover m x :=
    decideUpdate_holding _ m _ (hrecord ▸ hengine) (noneUsable_read _ _ hnone)
  rw [hrecord] at hst
  rw [hdecision] at hdlp hhop hlrn
  refine ⟨u, hexec, ?_, ?_, fun hopen => ?_⟩
  · rw [hdlp, hst]
  · rw [hhop, hst]
  · have hclosed : (v.runHoldover m x).st.lrn = s.lrn := by rw [hst, ← hlearned]
    rw [hlrn, handOn_model _ _ _ (by rw [hst]; rfl) (by rw [hclosed, hopen]), hclosed]

/-! ## Exit (R91, R135) -/

/-- The exit's estimate is stepped where it is beyond the step limit and steps are permitted, else it is used with the acquisition exponent and
an interval of 1 (R83, R91). -/
theorem regain_eq {v s : State} (hsite : v.site = s.site) (hsdc : v.sdc = s.sdc) (r : PhaseRef) (x : PhaseEstimate) :
    let w := v.exitHoldover x.e
    let d := { v.dlp with integral := 256 * v.dlp.fOut }
    (StepsOut s x → v.regain r x = w.stepped (estimateStepped s d r x) ⟨false, 0, x.e⟩) ∧
    (¬StepsOut s x → v.regain r x = w.decided
      { estimateUsed s d (max 3 (s.site.nat (.bandwidth r.kind) - 2)) 1 x with
        engine := .acquiring r, unlockRun := 0
        lockRun := if x.e.natAbs ≤ 1000 * s.site.nat (.lockThreshold r.kind) then 1 else 0 }) := by
  intro w d
  obtain ⟨-, hdlp, -, hsst, hsdc', -⟩ := notice_hop { v with hop := v.hop.closeEpisode x.e } true
  have hwsite : w.site = s.site := (congrArg Sst.record hsst).trans hsite
  have hwsdc : w.sdc = s.sdc := hsdc'.trans hsdc
  have hwdlp : w.dlp = v.dlp := hdlp
  let d' : Dlp := { v.dlp with engine := .acquiring r, integral := 256 * v.dlp.fOut, lockRun := 0, unlockRun := 0, firstEstimate := true }
  have hregain : v.regain r x = if w.steps d' x then w.ordinaryStep d' r x else w.decided (w.reacquire d' r x) := by
    unfold State.regain
    rw [show v.exitHoldover x.e = w from rfl]
    dsimp only
    rw [hwdlp]
  have hsteps : w.steps d' x = true ↔ StepsOut s x := (steps_iff w s hwsite d' x).trans (and_iff_right rfl)
  refine ⟨fun hout => ?_, fun hout => ?_⟩
  · rw [hregain, if_pos (hsteps.2 hout), ordinary_decided w s hwsite]
    rfl
  · rw [hregain, if_neg (fun h => hout (hsteps.1 h)), State.reacquire, State.lockThreshold, hwsite, arith_eq w s hwsite hwsdc]
    rfl

/-- The exit takes no step of its own. -/
theorem exitHoldover_tsu (v : State) (e : Int) : (v.exitHoldover e).tsu = v.tsu := State.noticeEpisode_tsu _ _

/-- The exit closes the episode and leaves the engine ACQUIRING (R91, R135). -/
theorem regain_closes (v : State) (r : PhaseRef) (x : PhaseEstimate) :
    (v.regain r x).st.hop = v.hop.closeEpisode x.e ∧ (v.regain r x).st.dlp.engine = .acquiring r := by
  have hhop : (v.exitHoldover x.e).hop = v.hop.closeEpisode x.e := (notice_hop _ true).1
  unfold State.regain
  dsimp only
  split <;> exact ⟨hhop, rfl⟩

end Sys2Proof.Machine
end

section
/-! The statements about the discipline loop, settled. -/

namespace Sys2Proof.DisciplineLoop

open Sys2Proof Sys2Proof.Machine Sys2Proof.Safety

/-- Settles O22: on an empty queue the part idles, and every command keeps the engine state and the traceable flag together. -/
theorem engineStaysTraceable : Obligations.EngineStaysTraceable := by
  intro s u h hstep
  unfold step at hstep
  split at hstep
  · cases hstep
    exact h
  · next rest _ => exact exec_engineTraceable (s := { s with pending := rest }) h hstep

/-- Settles O23: every decision clamps its f_out, and with a centre code in range only a correction with a sign is cut. -/
theorem outputWithinPullRange : Obligations.OutputWithinPullRange := by
  intro order s h hsettings
  obtain ⟨u, v, hexec, hframe, rfl, hdlp, -, hsdc, -⟩ := update_decided s order h
  obtain ⟨hsite, hdac, -⟩ := frame_site hframe
  obtain ⟨-, -, hsite'⟩ := decideUpdate_rest (atLoop order s).spendEstimates ((atLoop order s).readLoop (gateOffset s))
  obtain ⟨hpull, -⟩ := val_inRange s.site hsettings .pullRange
  obtain ⟨hlow, hhigh⟩ := val_inRange s.site hsettings .centre
  refine ⟨u, hexec, ?_, ?_⟩
  · rw [hdlp, ← hsite]
    refine (decideUpdate_decided _ _).natAbs_fOut_le ?_
    rw [State.pull, hsite]
    exact le_trans (by decide) hpull
  · rw [hdlp, hsdc, hsite', hsite, take_eq _ _ _ hlow hhigh, decideUpdate_sdc, hdac]
    rfl

/-- Settles O24: the estimate is followed and not stepped. -/
theorem lockedUpdateArithmetic : Obligations.LockedUpdateArithmetic := by
  intro order s f r x h husable hused n threshold locked acquiring run
  obtain ⟨hsite, hsdc, hdlp, -⟩ := frame_site (found_frame s order)
  obtain ⟨u, hexec, hrecord⟩ := update_dlp s order h
  rw [← hdlp] at hused
  have hfollows : s.dlp.engine = .locked f ∨ s.dlp.engine = .acquiring f →
      u.dlp = ((atLoop order s).spendEstimates.follow f r x).st.dlp := fun hengine => by
    rw [hrecord, State.updateDecision, usable_read _ _ r x husable, decideUpdate_follow _ f r x _ _ (hdlp ▸ hengine)]
  refine ⟨fun hengine => ⟨u, hexec, ?_⟩, fun hengine => ⟨u, hexec, ?_⟩⟩
  · rw [hfollows (.inl hengine), follow_locked hsite hsdc r x f (by rw [hdlp, hengine]; rfl) hused, hdlp]
    rfl
  · rw [hfollows (.inr hengine), follow_acquiring hsite hsdc r x f (by rw [hdlp, hengine]; rfl) hused, hdlp]
    rfl

/-- Settles O25: the terms held, and the three sub-modes of FREERUN. -/
theorem termsHeldWithoutEstimate : Obligations.TermsHeldWithoutEstimate := by
  refine ⟨fun order s f r h hengine hselected hnone => ?_, fun order s m h hengine hnone => ?_⟩
  all_goals
    obtain ⟨hsite, hsdc, hdlp, -, hlrn, hssq, -⟩ := frame_site (found_frame s order)
    have hread := noneUsable_read (atLoop order s) (gateOffset s) hnone
    obtain ⟨u, hexec, hrecord⟩ := update_dlp s order h
    refine ⟨u, hexec, ?_⟩
  · rw [hrecord, State.updateDecision, decideUpdate_hold _ f r _ (hdlp ▸ hengine) hselected hread, holdTerms_eq hsite, hdlp, count_eq]
    rfl
  · rw [State.updateDecision, decideUpdate_free _ m _ (hdlp ▸ hengine) hread] at hrecord
    intro pull free
    have hf1 : ((atLoop order s).readLoop (gateOffset s)).f1 = decide (((atLoop order s).record .f1).state = .qualified) := f1Available_eq _
    split
    · next hqualified =>
      rw [runFree_frequency _ _ (hf1.trans (decide_eq_true hqualified)), frequencyIntegral_eq hsite hsdc, hdlp] at hrecord
      rw [hrecord, State.decided, count_eq]
      simp only [free, pull, loopOutput, State.pull, hsite, Int.add_zero]
      rfl
    · next hqualified =>
      rw [← hlrn]
      have hoff := hf1.trans (decide_eq_false hqualified)
      split
      · next hempty =>
        rw [hrecord, runFree_unsteered _ _ hoff hempty, State.decided, count_eq, hdlp]
      · next b hbin =>
        rw [hrecord, runFree_model _ _ b hoff hbin, State.decided, count_eq, hdlp]
        simp only [free, pull, State.pull, State.toscAlarm, State.tosc, hsite, hssq]
        rfl

/-- Settles O27: the entry by what it opens and how its sub-mode steers, and a later update by its sub-mode. -/
theorem holdoverEntered : Obligations.HoldoverEntered := by
  refine ⟨fun order s f h hengine hnone => ?_, fun order s m h hengine hnone => ?_⟩
  all_goals
    obtain ⟨hsite, hsdc, hrecord, hheld, hlearned, hsensed, hseconds, -⟩ := frame_site (found_frame s order)
    have hmode := holdModeOf_read (atLoop order s) (gateOffset s)
    have hsteering := steering_of_qualified (atLoop order s) (gateOffset s)
  · obtain ⟨u, hexec, hdlp, hhop, hmodel, hbound⟩ := update_enters s order f h hengine hnone
    refine ⟨u, hexec, ?_⟩
    generalize (atLoop order s).spendEstimates = v at *
    generalize (atLoop order s).readLoop (gateOffset s) = x at *
    intro pull mode base
    have hpull : v.pull = pull := congrArg (fun r : SiteRecord => r.val .pullRange) hsite
    have htosc : v.tosc = s.tosc := congrArg (fun y : Ssq => y.results.tosc) hsensed
    have halarm : v.toscAlarm = s.toscAlarm := congrArg (fun y : Ssq => y.alarms.tosc.state.raised) hsensed
    have hintegral : v.integralInRange = clampAbs (256 * pull) s.dlp.integral := by rw [State.integralInRange, hpull, hrecord]
    have hlocked : s.dlp.engine.isLocked = true ↔ s.dlp.engine = .locked f := by
      rcases hengine with hengine | hengine <;> simp [hengine, Engine.isLocked]
    obtain ⟨source, f0, baseTime, baseTemp, eBase, integral, terms, hsteered⟩ := entrySteered_hop v f x
    have hopened := hhop.trans (congrArg (fun y : Hop => { y with epochs := 0 }) hsteered)
    simp only [episodeOpened_hop, hheld, hrecord, hsite, hlocked] at hopened
    have hi := congrArg Dlp.integral hdlp
    have hout := congrArg Dlp.fOut hdlp
    rw [hmode, hintegral] at hdlp
    refine ⟨congrArg Dlp.engine hdlp, congrArg Dlp.integral hdlp, congrArg Dlp.prop hdlp, congrArg Dlp.lockRun hdlp,
      congrArg Dlp.unlockRun hdlp, congrArg Dlp.settling hdlp, congrArg Dlp.firstEstimate hdlp, congrArg Hop.isOpen hopened,
      congrArg Hop.time hopened, congrArg Hop.scoreInUse hopened, (congrArg Hop.score hopened).trans rfl,
      congrArg Hop.modelCleared hopened, congrArg Hop.nextNumber hopened, congrArg Hop.uncertainty hopened, ?_,
      ⟨v.newEpisode (v.entryOf f x), congrArg Hop.episodes hopened, congrArg Hop.nextNumber hheld, hseconds, rfl, hmode, rfl, rfl, rfl,
        rfl, rfl, congrArg Hop.score hheld, rfl⟩, ?_⟩
    · rw [hbound, ← congrArg Hop.bound hhop, hopened]
    · by_cases hf1 : ((atLoop order s).record .f1).state = .qualified
      · have hassisted : mode = .assisted := if_pos hf1
        obtain ⟨hsource, hkept, hf⟩ := entrySteered_assisted v f x (hmode.trans hassisted)
        clear_value mode
        subst hassisted
        rw [hsteering hf1, assistedIntegral_eq (v := v.closeOpenBin) hsite hsdc] at hkept
        rw [hpull] at hf
        show u.hop.baseSource = _ ∧ u.hop.integral = _ ∧ u.dlp.fOut = _
        rw [hhop, hout, hmodel, hi]
        exact ⟨hsource, hkept, hf⟩
      · have hpredicted : mode = .predicted := if_neg hf1
        obtain ⟨hsource, hkept, hf⟩ := entrySteered_predicted v f x (hmode.trans hpredicted)
        clear_value mode
        subst hpredicted
        rw [hpull, hheld] at hkept
        rw [hpull, hseconds, halarm, htosc] at hf
        rw [hseconds, htosc] at hsource
        show (u.hop.baseSource, u.hop.f0, u.hop.baseTime, u.hop.baseTemp, u.hop.eBase) = _ ∧ u.hop.integral = _ ∧ u.dlp.fOut = _
        rw [hhop, hout, hmodel, hi]
        exact ⟨hsource, hkept, hf⟩
  · obtain ⟨u, hexec, hdlp, hhop, hmodel⟩ := update_holds s order m h hengine hnone
    refine ⟨u, hexec, ?_⟩
    intro pull mode retaken base time doubt integral increment uncertainty
    have hintegral : (atLoop order s).spendEstimates.integralInRange = clampAbs (256 * pull) s.dlp.integral := by
      rw [State.integralInRange, State.pull, hsite, hrecord]
    rw [hmode, hintegral, count_eq] at hdlp
    rw [hmode] at hhop
    by_cases hf1 : ((atLoop order s).record .f1).state = .qualified
    · have hassisted : mode = .assisted := if_pos hf1
      clear_value mode
      subst hassisted
      rw [if_pos hf1, hold_assisted, assistedIntegral_eq hsite hsdc, hheld, hlearned, State.pull, hsite, hsteering hf1] at hdlp hhop
      have hbase : base = s.hop := if_neg fun hswitch => nomatch hswitch.2
      clear_value base
      subst hbase
      rw [hdlp, hhop]
      exact ⟨hmodel, rfl, rfl, rfl⟩
    · have hpredicted : mode = .predicted := if_neg hf1
      clear_value mode
      subst hpredicted
      obtain ⟨terms, hu16, hupdate⟩ := hold_predicted (atLoop order s).spendEstimates m s.dlp.fOut
        ((atLoop order s).readLoop (gateOffset s)).steering
      simp only [State.pull, State.tosc, State.toscAlarm, hsite, hheld, hlearned, hsensed, hseconds] at hu16 hupdate
      rw [if_neg hf1, hupdate] at hdlp hhop
      rw [hdlp, hhop]
      refine ⟨hmodel, ?_⟩
      cases m with
      | predicted => exact ⟨rfl, rfl, hu16⟩
      | assisted => exact ⟨rfl, rfl, hu16⟩

/-- Settles O28: the episode is closed, and e1 is stepped or used. -/
theorem holdoverLeft : Obligations.HoldoverLeft := by
  intro order s m r x e es h hengine husable hepisodes
  obtain ⟨u, v, hexec, hframe, rfl, hdlp, hhop, -⟩ := update_decided s order h
  obtain ⟨hsite, hsdc, hrecord, hheld, -⟩ := frame_site hframe
  have hdecision := decideUpdate_regain (atLoop order s).spendEstimates m r x (atLoop order s).f1Available (gateOffset s)
    (hrecord ▸ hengine)
  rw [← usable_read (atLoop order s) (gateOffset s) r x husable] at hdecision
  obtain ⟨hclosed, hacquiring⟩ := regain_closes (atLoop order s).spendEstimates r x
  obtain ⟨hstepped, hused⟩ := regain_eq hsite hsdc r x
  rw [hdecision, hclosed, hheld] at hhop
  rw [hrecord] at hstepped hused
  have hlist : u.hop.episodes = closeNewest s.hop.time s.hop.bound x.e (s.hop.scoreAfter x.e) s.hop.episodes :=
    congrArg Hop.episodes hhop
  rw [hepisodes] at hlist
  refine ⟨u, hexec, by rw [hdlp, hdecision, hacquiring], congrArg Hop.isOpen hhop, (congrArg Hop.uncertainty hhop).trans rfl,
    congrArg Hop.score hhop, hlist, ?_⟩
  intro d n
  refine ⟨fun hout => ?_, fun hout => ?_⟩
  · have hspent : (atLoop order s).spendEstimates.tsu = (atLoop order s).tsu := (RquFrame.spendEstimates (.refl _)).tsu
    have htsu : ((atLoop order s).spendEstimates.exitHoldover x.e).tsu = (atLoop order s).tsu :=
      (exitHoldover_tsu _ _).trans hspent
    obtain ⟨u', hexec', hstep, -, -, -, hleft⟩ := update_steps s order h ((atLoop order s).spendEstimates.exitHoldover x.e)
      (estimateStepped s { s.dlp with integral := 256 * s.dlp.fOut } r x) ⟨false, 0, x.e⟩ r htsu rfl rfl
      (congrArg Decision.st (hdecision.trans (hstepped hout)))
    cases hexec.symm.trans hexec'
    exact ⟨hstep, hleft⟩
  · rw [hdlp, hdecision, hused hout]
    rfl

end Sys2Proof.DisciplineLoop
end

section
/-! SUPPORT. What keeps the sizes and ranges of the learned model: the bin appended, the anchor and the table, the slope and the F1 bias, and a
model read back from its area (R94, R100, R105 to R109, R188). -/

namespace Sys2Proof.Machine

open Sys2Proof Sys2Proof.Safety

/-! ## The bin appended (R100) -/

/-- The history with a bin appended: the newest bins that the bin does not follow are removed, and the oldest beyond 96 dropped. -/
theorem appendBin_eq (history : List Bin) (b : Bin) : ∃ old removed : List Bin, history = old ++ removed ∧
    (∀ x ∈ removed, secDiff b.start x.finish ≤ 0) ∧ (∀ x ∈ old.getLast?, 0 < secDiff b.start x.finish) ∧
    appendBin history b = old.drop (old.length - 95) ++ [b] := by
  let late : Bin → Bool := fun x => decide (secDiff b.start x.finish ≤ 0)
  refine ⟨history.rdropWhile late, history.rtakeWhile late, List.rdropWhile_append_rtakeWhile.symm, fun x hx => ?_, fun x hx => ?_, ?_⟩
  · simpa [late] using List.mem_rtakeWhile_imp hx
  · obtain ⟨hne, rfl⟩ := List.mem_getLast?_eq_getLast hx
    simpa [late] using List.rdropWhile_last_not late history hne
  · have happended : ∀ old : List Bin, (old ++ [b]).drop ((old ++ [b]).length - 96) = old.drop (old.length - 95) ++ [b] := fun old => by
      rw [List.length_append, List.length_singleton, List.drop_append_of_le_length (by omega), Nat.add_sub_add_right old.length 1 95]
    exact happended (history.rdropWhile late)

theorem appendBin_length_le (history : List Bin) (b : Bin) : (appendBin history b).length ≤ 96 := by
  obtain ⟨old, removed, -, -, -, happended⟩ := appendBin_eq history b
  rw [happended, List.length_append, List.length_drop, List.length_singleton]
  omega

/-! ## The model's sizes and ranges -/

/-- The sizes and ranges of a model (R94, R100, R107 to R109). -/
structure Model.Sized (m : Model) : Prop where
  history : m.history.length ≤ 96
  table : m.table.length = 64
  entries : ∀ x ∈ m.table, x.v.natAbs ≤ 2000000 ∧ x.w ≤ 255
  slope : m.slope.natAbs ≤ 320000
  f1Bias : m.f1Bias.natAbs ≤ 10000000

theorem modelSized_iff (s : State) : ModelSized s ↔ s.lrn.model.Sized ∧ s.hop.episodes.length ≤ 16 :=
  ⟨fun ⟨hhistory, htable, hentries, hslope, hbias, hepisodes⟩ => ⟨⟨hhistory, htable, hentries, hslope, hbias⟩, hepisodes⟩,
   fun ⟨⟨hhistory, htable, hentries, hslope, hbias⟩, hepisodes⟩ => ⟨hhistory, htable, hentries, hslope, hbias, hepisodes⟩⟩

theorem natAbs_clampAbs_le_nat (bound : Nat) (x : Int) : (clampAbs bound x).natAbs ≤ bound := by
  have := natAbs_clampAbs_le bound x (Int.natCast_nonneg bound)
  omega

theorem Model.sized_cleared : Model.cleared.Sized := by
  refine ⟨by decide, by decide, fun x hx => ?_, by decide, by decide⟩
  obtain ⟨-, rfl⟩ := List.mem_replicate.1 hx
  decide

/-- One entry of the table replaced by one in range. -/
theorem Model.Sized.setEntry {m : Model} (h : m.Sized) (j : Nat) {x : TableEntry} (hx : x.v.natAbs ≤ 2000000 ∧ x.w ≤ 255)
    (anchor : Option Anchor) : ({ m with anchor := anchor, table := m.table.set j x } : Model).Sized :=
  { history := h.history
    table := (List.length_set ..).trans h.table
    entries := fun y hy => (List.mem_or_eq_of_mem_set hy).elim (h.entries y) fun heq => heq ▸ hx
    slope := h.slope
    f1Bias := h.f1Bias }

theorem TableEntry.update_inRange (x : TableEntry) (r : Int) (h : x.w ≤ 255) : (x.update r).v.natAbs ≤ 2000000 ∧ (x.update r).w ≤ 255 := by
  refine ⟨natAbs_clampAbs_le_nat 2000000 _, ?_⟩
  show satSucc 255 x.w ≤ 255
  rw [satSucc_eq_min]
  omega

theorem Model.Sized.entry {m : Model} (h : m.Sized) (i : Nat) : (m.entry i).w ≤ 255 := by
  unfold Model.entry
  rw [List.getD_eq_getElem?_getD]
  cases hentry : m.table[i]? with
  | none => decide
  | some x => exact (h.entries x (List.mem_of_getElem? hentry)).2

theorem Model.Sized.fitSlope {m : Model} (h : m.Sized) (alarm : Bool) : (m.fitSlope alarm).Sized := by
  unfold Model.fitSlope
  dsimp only
  split
  · split
    · exact { h with slope := natAbs_clampAbs_le_nat 320000 _ }
    · exact h
  · exact h

/-- A kept bin worked keeps the sizes: it sets one entry of the table, and the slope (R105 to R108). -/
theorem Model.Sized.learn {m : Model} (h : m.Sized) (alarm : Bool) (b : Bin) : (m.learn alarm b).Sized := by
  refine Model.Sized.fitSlope ?_ alarm
  split
  · exact h
  · split
    · exact h.setEntry _ (by decide) _
    · exact h.setEntry _ ((m.entry _).update_inRange _ (h.entry _)) m.anchor

theorem Model.Sized.keep {m : Model} (h : m.Sized) (alarm : Bool) (b : Bin) : (m.keep alarm b).Sized :=
  Model.Sized.learn (m := { m with history := appendBin m.history b })
    ⟨appendBin_length_le m.history b, h.table, h.entries, h.slope, h.f1Bias⟩ alarm b

theorem Model.Sized.learnBias {m : Model} (h : m.Sized) (d : Int) : (m.learnBias d).Sized :=
  { h with f1Bias := natAbs_clampAbs_le_nat 10000000 _ }

/-! ## A model read back (R188) -/

@[simp] theorem recordsOf_length (n size : Nat) (bs : List Byte) : (recordsOf n size bs).length = n := by
  induction n generalizing bs with
  | zero => rfl
  | succ n ih => rw [recordsOf, List.length_cons, ih]

theorem tableEntryOf_inRange (bs : List Byte) : (tableEntryOf bs).v.natAbs ≤ 2000000 ∧ (tableEntryOf bs).w ≤ 255 := by
  refine ⟨natAbs_clampAbs_le_nat 2000000 _, ?_⟩
  have hlength : (slice 4 1 bs).length ≤ 1 := List.length_take_le ..
  have hvalue : natOf (slice 4 1 bs) < 256 ^ 1 := (natOf_lt _).trans_le (Nat.pow_le_pow_right (by decide) hlength)
  show natOf (slice 4 1 bs) ≤ 255
  omega

theorem natIn_le (lo hi : Nat) (bs : List Byte) (h : lo ≤ hi) : natIn lo hi bs ≤ hi := max_le h (min_le_left ..)

/-- Whatever bytes the MODEL area holds, the model restored from them has its sizes and ranges. -/
theorem modelOf_sized (c : List Byte) : (modelOf c).Sized :=
  { history := by
      simp only [modelOf, List.length_map, recordsOf_length]
      exact natIn_le 0 96 _ (by decide)
    table := by simp [modelOf]
    entries := fun x hx => by
      obtain ⟨bs, -, rfl⟩ := List.mem_map.1 hx
      exact tableEntryOf_inRange bs
    slope := natAbs_clampAbs_le_nat 320000 _
    f1Bias := natAbs_clampAbs_le_nat 10000000 _ }

theorem restoredOf_episodes_length_le (c : List Byte) : (restoredOf c).episodes.length ≤ 16 := by
  simp only [restoredOf, List.length_map, recordsOf_length]
  exact natIn_le 0 16 _ (by decide)

end Sys2Proof.Machine
end

section
/-! SUPPORT. What the end of a sensor sequence leaves: the sensors' results and alarms, the readback's outcome, the warm-up, the open bin and the
verdict (R96, R99, R114, R145 to R153). -/

namespace Sys2Proof.Machine

open Sys2Proof Sys2Proof.Safety

/-! ## The parts of the end -/

/-- The end of a sequence: the sequencer and the DAC's record as the raw counts give them, the Learning Unit's state, and the queues. -/
theorem completeSequence_keeps (s : State) (raw : RawCounts) : ∃ l tp, s.completeSequence raw = { s with
    ssq := s.ssq.complete s.site raw, sdc := s.sdc.readbackStep s.site (resultsOf raw).vctl, lrn := l, tp := tp } := by
  have hwarm : ∀ v : State, ∃ l, v.warmStep = { v with lrn := l } := fun v => by
    unfold State.warmStep
    split
    · exact ⟨v.lrn, rfl⟩
    · exact ⟨_, rfl⟩
  have hdisturb : ∀ v : State, ∃ l, (if v.disturbedSince s then { v with lrn := v.lrn.disturb } else v) = { v with lrn := l } := fun v => by
    split
    · exact ⟨_, rfl⟩
    · exact ⟨v.lrn, rfl⟩
  unfold State.completeSequence
  dsimp only
  obtain ⟨l, hdisturbed⟩ := hdisturb { s with
    ssq := s.ssq.complete s.site raw, sdc := s.sdc.readbackStep s.site (s.ssq.complete s.site raw).results.vctl }
  rw [hdisturbed]
  obtain ⟨l', hwarmed⟩ := hwarm { s with
    ssq := s.ssq.complete s.site raw, sdc := s.sdc.readbackStep s.site (s.ssq.complete s.site raw).results.vctl, lrn := l }
  rw [hwarmed]
  obtain ⟨tp, hreported⟩ := reportHealth_keeps { s with
    ssq := s.ssq.complete s.site raw, sdc := s.sdc.readbackStep s.site (s.ssq.complete s.site raw).results.vctl, lrn := l' } s
  exact ⟨_, tp, hreported⟩

/-- The warm-up leaves the model. -/
theorem warm_model (l : Lrn) (r : SiteRecord) (i : Int) : (l.warm r i).model = l.model := by
  unfold Lrn.warm
  split
  · dsimp only
    split <;> rfl
  · rfl
  · split <;> rfl
  · rfl

/-- The end of a sequence teaches the model nothing. -/
theorem completeSequence_model (s : State) (raw : RawCounts) : (s.completeSequence raw).lrn.model = s.lrn.model := by
  obtain ⟨b, -, hlrn⟩ := completeSequence_lrn s raw
  have hdisturbed : (if b then s.lrn.disturb else s.lrn).model = s.lrn.model := by split <;> rfl
  rw [hlrn]
  split
  · exact hdisturbed
  · exact (warm_model _ _ _).trans hdisturbed

/-! ## Results (R148, R149) -/

/-- A channel's result is of its count less the offset's, at least 0, where both counts are valid. -/
theorem correctedCount_map (ofs raw : Raw12) (scale : Int → Int) :
    (correctedCount ofs raw).map (fun n : Nat => scale n) =
      if decide (ofs.toNat ≤ 64 ∧ raw.toNat ≠ 4095) = true then some (scale (max 0 ((raw.toNat : Int) - ofs.toNat))) else none := by
  have hcount : ((raw.toNat - ofs.toNat : Nat) : Int) = max 0 ((raw.toNat : Int) - ofs.toNat) := by omega
  unfold correctedCount
  split
  · next hinvalid => rw [if_neg (by simp only [decide_eq_true_eq]; omega), Option.map_none]
  · next hvalid => rw [if_pos (by simp only [decide_eq_true_eq]; omega), Option.map_some, hcount]

/-! ## The readback (R145 to R147) -/

/-- The outcome of a readback against the latched code (R145). -/
def Sdc.outcomeOf (d : Sdc) (tolerance : Int) (vctl : Option Int) : ReadbackOutcome :=
  match vctl with
  | none => .skipped
  | some v =>
    if d.latchedMoved = true then .skipped
    else if tolerance < ((v - d.latchedCode).natAbs : Int) then .disagree else .agree

theorem compare_eq (d : Sdc) (tolerance : Int) (vctl : Option Int) :
    d.compare tolerance vctl = ⟨d.latchedCode, vctl, vctl.map (fun v => v - d.latchedCode), d.outcomeOf tolerance vctl⟩ := by
  cases vctl <;> rfl

/-- The DAC's record after a readback, by its steering state and the outcome. -/
theorem readbackStep_eq (d : Sdc) (r : SiteRecord) (vctl : Option Int) :
    let outcome := d.outcomeOf (r.val .readbackTolerance) vctl
    let after (steering : Steering) (faultRun agreeRun : Nat) : Sdc := { d with
      readback := some ⟨d.latchedCode, vctl, vctl.map (fun v => v - d.latchedCode), outcome⟩
      steering := steering, faultRun := faultRun, agreeRun := agreeRun }
    d.readbackStep r vctl = match d.steering, outcome with
      | x, .skipped => after x d.faultRun d.agreeRun
      | .normal, .agree => after .normal 0 d.agreeRun
      | .normal, .disagree =>
        if r.nat .readbackFaultCount ≤ d.faultRun + 1 then after .held 0 0 else after .normal (d.faultRun + 1) d.agreeRun
      | .held, .agree => if 8 ≤ d.agreeRun + 1 then after .normal 0 0 else after .held d.faultRun (d.agreeRun + 1)
      | .held, .disagree => after .held d.faultRun 0 := by
  intro outcome after
  have hjudged : d.readbackStep r vctl = (after d.steering d.faultRun d.agreeRun).judgeReadback (r.nat .readbackFaultCount) outcome := by
    unfold Sdc.readbackStep
    rw [compare_eq]
  rw [hjudged]
  cases d with
  | mk target output atLimit steering faultRun agreeRun moved latchedCode latchedMoved readback =>
    cases steering <;> cases outcome <;> rfl

/-! ## The warm-up (R96) -/

/-- The warm-up state and its two runs after a valid oven current. -/
theorem warm_runs (l : Lrn) (r : SiteRecord) (i : Int) :
    ((l.warm r i).warmup, (l.warm r i).settleRun, (l.warm r i).overRun) =
      match l.warmup with
      | .warming =>
        if i ≤ r.val .settleCurrent then
          (if r.nat .settleTime ≤ min 65535 (l.settleRun + 1) then (.settled, 0, 0)
           else (.warming, min 65535 (l.settleRun + 1), l.overRun))
        else (.warming, 0, l.overRun)
      | .settled =>
        if i ≤ r.val .settleCurrent then (.settled, l.settleRun, 0)
        else if 10 ≤ l.overRun + 1 then (.warming, 0, 0)
        else (.settled, l.settleRun, l.overRun + 1) := by
  unfold Lrn.warm
  simp only [satSucc_eq_min]
  cases l.warmup with
  | warming =>
    by_cases hcurrent : i ≤ r.val .settleCurrent <;> simp only [hcurrent, decide_true, decide_false, if_true, if_false]
    split <;> rfl
  | settled =>
    by_cases hcurrent : i ≤ r.val .settleCurrent <;> simp only [hcurrent, decide_true, decide_false, if_true, if_false]
    split <;> rfl

/-! ## Alarms (R151 to R153) -/

/-- An alarm toward a side: its entry run counted, or the side entered. -/
theorem enter_eq (a : Alarm) (n : Nat) (side : Side) :
    a.enter n side =
      let run := if a.side = side then min 8 (a.entryRun + 1) else 1
      if n ≤ run then { state := side.state, entryRun := 0, side := side, exitRun := 0 }
      else { a with entryRun := run, side := side } := by
  have hrun : (if a.side = side ∧ 0 < a.entryRun then satSucc 8 a.entryRun else 1) = if a.side = side then min 8 (a.entryRun + 1) else 1 := by
    rw [satSucc_eq_min]
    by_cases hside : a.side = side
    · rcases Nat.eq_zero_or_pos a.entryRun with hzero | hpos
      · simp [hside, hzero]
      · simp [hside, hpos]
    · simp [hside]
  unfold Alarm.enter
  rw [hrun]

theorem leave_eq (a : Alarm) (n : Nat) :
    a.leave n = if n ≤ min 8 (a.exitRun + 1) then { a with state := .inRange, entryRun := 0, exitRun := 0 }
      else { a with entryRun := 0, exitRun := min 8 (a.exitRun + 1) } := by
  unfold Alarm.leave
  rw [satSucc_eq_min]

/-- The class of a result, by the limits it is beyond; below comes first (R151). -/
theorem classOf_cases (l : Limits) (r : Int) :
    (r < l.low ∧ l.classOf r = .below) ∨ (¬r < l.low ∧ l.high < r ∧ l.classOf r = .above) ∨
    (¬r < l.low ∧ ¬l.high < r ∧ l.classOf r = .inside) := by
  unfold Limits.classOf
  split
  · next h => exact .inl ⟨h, rfl⟩
  · next h =>
    split
    · next h' => exact .inr (.inl ⟨h, h', rfl⟩)
    · next h' => exact .inr (.inr ⟨h, h', rfl⟩)

theorem take_inRange (a : Alarm) (l : Limits) (r : Int) (h : a.state = .inRange) :
    a.take l r = if r < l.low then a.enter l.count .low else if l.high < r ∧ ¬r < l.low then a.enter l.count .high
      else { a with entryRun := 0 } := by
  rcases classOf_cases l r with ⟨hbelow, hclass⟩ | ⟨hbelow, habove, hclass⟩ | ⟨hbelow, habove, hclass⟩ <;>
    simp [Alarm.take, *]

theorem take_low (a : Alarm) (l : Limits) (r : Int) (h : a.state = .low) :
    a.take l r = if l.high < r ∧ ¬r < l.low then ({ a with exitRun := 0 }).enter l.count .high
      else if l.low + l.hysteresis ≤ r ∧ r ≤ l.high then a.leave l.count else { a with entryRun := 0, exitRun := 0 } := by
  rcases classOf_cases l r with ⟨hbelow, hclass⟩ | ⟨hbelow, habove, hclass⟩ | ⟨hbelow, habove, hclass⟩ <;>
    simp [Alarm.take, *]

theorem take_high (a : Alarm) (l : Limits) (r : Int) (h : a.state = .high) :
    a.take l r = if r < l.low then ({ a with exitRun := 0 }).enter l.count .low
      else if l.low ≤ r ∧ r ≤ l.high - l.hysteresis then a.leave l.count else { a with entryRun := 0, exitRun := 0 } := by
  rcases classOf_cases l r with ⟨hbelow, hclass⟩ | ⟨hbelow, habove, hclass⟩ | ⟨hbelow, habove, hclass⟩ <;>
    simp only [Alarm.take, h, hclass, hbelow, if_true, if_false]

/-! ## The verdict (R114) -/

theorem raised_iff (x : AlarmState) : x.raised = true ↔ x ≠ .inRange := by cases x <;> decide

/-- A health report leaves the verdict that the part's state gives. -/
theorem reportHealth_verdict (s before : State) :
    let u := s.reportHealth before
    u.lrn.verdict = deriveVerdict u.lrn u.sdc u.ssq.alarms := by
  obtain ⟨tp, h⟩ := reportHealth_keeps s before
  intro u
  rw [show u = { s.recompute with tp := tp } from h]
  rfl

theorem completeSequence_verdict (s : State) (raw : RawCounts) :
    let u := s.completeSequence raw
    u.lrn.verdict = deriveVerdict u.lrn u.sdc u.ssq.alarms := reportHealth_verdict _ s

theorem deriveVerdict_eq (l : Lrn) (d : Sdc) (x : PerAlarm Alarm) :
    let raised (c : AlarmChannel) : Prop := (x.get c).state ≠ .inRange
    let m := l.model
    deriveVerdict l d x =
      if d.steering = .held ∨ raised .tosc ∨ (m.slopeValid = true ∧ m.slope.natAbs = 320000) then .failed
      else if l.warmup = .warming ∨ raised .tbrd ∨ raised .vsup ∨ raised .vctl ∨ d.atLimit ≠ .clear then .impaired
      else if m.slopeValid = false ∨ (m.table.filter (fun x => decide (16 ≤ x.w))).length < 8 then .learning
      else .ready := by
  unfold deriveVerdict
  simp only [raised_iff]
  rfl

/-! ## The Learning Unit (R96, R99) -/

/-- The warm-up after a sequence: moved by a valid oven current, or as it was. -/
theorem completeSequence_warms (s : State) (raw : RawCounts) :
    let u := s.completeSequence raw
    let runs := (u.lrn.warmup, u.lrn.settleRun, u.lrn.overRun)
    match u.ssq.results.iovn with
    | none => runs = (s.lrn.warmup, s.lrn.settleRun, s.lrn.overRun)
    | some i => runs =
      match s.lrn.warmup with
      | .warming =>
        if i ≤ s.site.val .settleCurrent then
          (if s.site.nat .settleTime ≤ min 65535 (s.lrn.settleRun + 1) then (.settled, 0, 0)
           else (.warming, min 65535 (s.lrn.settleRun + 1), s.lrn.overRun))
        else (.warming, 0, s.lrn.overRun)
      | .settled =>
        if i ≤ s.site.val .settleCurrent then (.settled, s.lrn.settleRun, 0)
        else if 10 ≤ s.lrn.overRun + 1 then (.warming, 0, 0)
        else (.settled, s.lrn.settleRun, s.lrn.overRun + 1) := by
  intro u runs
  obtain ⟨b, -, hlrn⟩ := completeSequence_lrn s raw
  let left : Lrn := match u.ssq.results.iovn with
    | none => if b then s.lrn.disturb else s.lrn
    | some i => (if b then s.lrn.disturb else s.lrn).warm s.site i
  have hruns : runs = (left.warmup, left.settleRun, left.overRun) :=
    (congrArg (fun l : Lrn => (l.warmup, l.settleRun, l.overRun)) hlrn :)
  rw [hruns]
  dsimp only [left]
  cases u.ssq.results.iovn with
  | none => cases b <;> rfl
  | some i => exact (warm_runs _ _ _).trans (by cases b <;> rfl)

/-- The open bin after a sequence: disturbed by a change to WARMING, an entry to HELD, and an entry of the TOSC alarm. -/
theorem completeSequence_openBin (s : State) (raw : RawCounts) :
    let u := s.completeSequence raw
    u.lrn.openBin = s.lrn.openBin.map (fun o => { o with disturbed := o.disturbed || decide (
      (s.lrn.warmup = .settled ∧ u.lrn.warmup = .warming) ∨ (s.sdc.steering = .normal ∧ u.sdc.steering = .held) ∨
      (u.ssq.alarms.tosc.state ≠ .inRange ∧ u.ssq.alarms.tosc.state ≠ s.ssq.alarms.tosc.state)) }) := by
  intro u
  obtain ⟨b, hb, hlrn⟩ := completeSequence_lrn s raw
  have hlrn : u.lrn = _ := hlrn
  let l : Lrn := if b then s.lrn.disturb else s.lrn
  have hbin : l.openBin = s.lrn.openBin.map (fun o => { o with disturbed := o.disturbed || b }) := by
    cases b with
    | true => simp [l, Lrn.disturb]
    | false => simp [l]
  have hwarmup : l.warmup = s.lrn.warmup := by cases b <;> rfl
  rw [Bool.decide_or, ← hb, hlrn]
  cases u.ssq.results.iovn with
  | none =>
    show l.openBin = s.lrn.openBin.map (fun o => { o with
      disturbed := o.disturbed || (decide (s.lrn.warmup = .settled ∧ l.warmup = .warming) || b) })
    rw [hbin, hwarmup, show decide (s.lrn.warmup = .settled ∧ s.lrn.warmup = .warming) = false by cases s.lrn.warmup <;> rfl]
    simp only [Bool.false_or]
  | some i =>
    show (l.warm s.site i).openBin = _
    rw [warm_openBin, hbin, hwarmup, Option.map_map]
    congr 1
    funext o
    simp only [Function.comp]
    rw [Bool.or_assoc, Bool.or_comm b]

end Sys2Proof.Machine
end

section
/-! SUPPORT. Every command keeps the sizes and ranges of the model and of the episode list: only a loop update, a MODEL CLEAR, the end of
loading and a hardware reset touch them (R94, R100, R107 to R109, R138). -/

namespace Sys2Proof.Machine

open Sys2Proof Sys2Proof.Safety

/-- What a part satisfies before a command's effect and after it, it satisfies after the command, whether reset is held or not. -/
theorem exec_preserves (P : State → Prop) {c : Instr} {f : State → State} {s u : State} (hexec : exec c s = .next u)
    (heffect : ∀ v, exec c v = whileRunning v f) (h : P s) (hf : P (f s)) : P u := by
  cases (heffect s).symm.trans hexec
  split
  · exact hf
  · exact h

/-! ## What leaves the model and the list -/

theorem modelSized_of_eq {s u : State} (h : ModelSized s) (hmodel : u.lrn.model = s.lrn.model) (hepisodes : u.hop.episodes = s.hop.episodes) :
    ModelSized u := by
  rw [ModelSized, hmodel, hepisodes]
  exact h

theorem RquFrame.modelSized {s u : State} (g : RquFrame s u) (h : ModelSized s) : ModelSized u :=
  modelSized_of_eq h (congrArg Lrn.model g.lrn) (congrArg Hop.episodes g.hop)

theorem reportHealth_modelSized {s : State} (h : ModelSized s) (before : State) : ModelSized (s.reportHealth before) := by
  obtain ⟨-, hmodel, hhop, -⟩ := reportHealth_rest (s := s) (before := before) rfl
  exact modelSized_of_eq h hmodel (congrArg Hop.episodes hhop)

theorem completeSequence_modelSized {s : State} (h : ModelSized s) (raw : RawCounts) : ModelSized (s.completeSequence raw) := by
  obtain ⟨l, tp, hkept⟩ := completeSequence_keeps s raw
  exact modelSized_of_eq h (completeSequence_model s raw) (by rw [hkept])

theorem raiseEpoch_modelSized {s : State} (h : ModelSized s) : ModelSized s.raiseEpoch := by
  obtain ⟨tp, hepoch⟩ := raiseEpoch_eq s
  rw [hepoch]
  refine modelSized_of_eq h ?_ rfl
  dsimp only
  split
  · rw [minuteMark_eq]
  · rfl

theorem endSave_modelSized {s : State} (h : ModelSized s) (v : Save) (ok : Bool) (done begun : Nat) :
    ModelSized (s.endSave v ok done begun) := by
  unfold State.endSave State.startPending State.tellSave
  split <;> split <;> exact h

/-! ## The end of loading (R137, R188, R193) -/

theorem closeInterrupted_length (es : List Episode) : (closeInterrupted es).length = es.length := by
  cases es with
  | nil => rfl
  | cons e es =>
    rw [closeInterrupted_eq]
    rfl

theorem endLoading_modelSized {s : State} (h : ModelSized s) (before : State) : ModelSized (s.endLoading before) := by
  obtain ⟨-, hmodel, hhop, -⟩ := endLoading_spec (s := s) (before := before) rfl
  exact modelSized_of_eq h hmodel (congrArg Hop.episodes hhop)

theorem loadModel_modelSized {s : State} (h : ModelSized s) (content : Option (List Byte)) : ModelSized (s.loadModel content) := by
  unfold State.loadModel
  split
  · exact endLoading_modelSized h s
  · next c =>
    obtain ⟨tp, hinterrupt⟩ := interruptEpisode_keeps (s.restore (restoredOf c))
    rw [hinterrupt]
    refine endLoading_modelSized ((modelSized_iff _).2 ⟨modelOf_sized c, ?_⟩) s
    exact (closeInterrupted_length _).trans_le (restoredOf_episodes_length_le c)

/-! ## Requests (R112, R133) -/

theorem markCleared_length (es : List Episode) : (markCleared es).length = es.length := by cases es <;> rfl

theorem clearModel_modelSized {s : State} (h : ModelSized s) : ModelSized s.clearModel := by
  refine (modelSized_iff _).2 ⟨Model.sized_cleared, ?_⟩
  show s.hop.modelClear.episodes.length ≤ 16
  obtain ⟨-, hepisodes⟩ := (modelSized_iff s).1 h
  unfold Hop.modelClear
  split
  · exact (markCleared_length _).trans_le hepisodes
  · exact hepisodes

/-- Of the requests' owners MODEL CLEAR alone touches the model or the list. -/
theorem answer_modelSized {s : State} (h : ModelSized s) (k : Port) (note : PortNote) (q : Request) : ModelSized (s.answer k note q) := by
  have hsave : ∀ kind a, ModelSized (s.requestSave k kind a) := fun kind a => by
    unfold State.requestSave
    split <;> exact h
  cases q with
  | portSet m p l => simp only [State.answer, answerPortSet]; split <;> exact h
  | offsetReport f => exact (RquFrame.takeReport (.refl s)).modelSized h
  | modelClear =>
    simp only [State.answer, answerModelClear]
    split
    · exact reportHealth_modelSized (clearModel_modelSized h) s
    · exact h
  | channelSet f =>
    simp only [State.answer, answerChannelSet]
    split
    · exact h
    · rw [applyChannel_spec]
      exact h
  | siteSet i n v =>
    simp only [State.answer, answerSiteSet]
    split
    · exact h
    · exact (applySetting_frame s k _ _).modelSized h
  | siteFreeze => simp only [State.answer, answerSiteFreeze, State.freeze]; split <;> exact h
  | siteSave => exact hsave 0x13 .site
  | modelSave => exact hsave 0x14 .model
  | _ => exact h

theorem dispatch_modelSized {s : State} (h : ModelSized s) (k : Port) (note : PortNote) (q : Request) : ModelSized (s.dispatch k note q) := by
  unfold State.dispatch
  split
  · exact h
  · split
    · exact h
    · exact answer_modelSized h k note q

theorem onPort_modelSized {s : State} (h : ModelSized s) (k : Port) (f : TenantPort → TenantPort) : ModelSized (s.onPort k f) := h

theorem receive_modelSized {s : State} (h : ModelSized s) (k : Port) (x : Inbound) : ModelSized (s.receive k x) := by
  unfold State.receive State.dispatchFrame
  split
  · exact h
  · split
    · exact h
    · exact h
    · exact dispatch_modelSized (onPort_modelSized h k _) k _ _

theorem request_modelSized {s : State} (h : ModelSized s) (k : Port) (t : Nat) (q : Request) : ModelSized (s.request k t q) := by
  unfold State.request
  exact dispatch_modelSized (onPort_modelSized (onPort_modelSized (s := s.advanceTo t) h k _) k _) k _ q

/-! ## Loop updates (R98, R100, R109, R118, R135) -/

theorem closeBin_sized {l : Lrn} (h : l.model.Sized) (alarm : Bool) : (l.closeBin alarm).model.Sized := by
  rw [closeBin_eq]
  dsimp only
  split
  · exact h
  · split
    · exact h
    · exact h.keep alarm _

theorem sample_sized {l : Lrn} (h : l.model.Sized) (alarm : Bool) (now : Sec) (i temp : Int) (disturbed : Bool) :
    (l.sample alarm now i temp disturbed).model.Sized := by
  unfold Lrn.sample
  extract_lets o filled
  split
  · exact closeBin_sized (l := filled) h alarm
  · exact h

/-- The Learning Unit's part of an update keeps the model's sizes: it works a kept bin or moves the F1 bias. -/
theorem learnUpdate_sized {s : State} (h : s.lrn.model.Sized) (old : Engine) (x : LoopInput) : (s.learnUpdate old x).lrn.model.Sized := by
  have hsampled : ∀ changed, (s.learn changed).lrn.model.Sized := fun changed => by
    unfold State.learn
    split
    · exact h
    · exact sample_sized h _ _ _ _ _
  unfold State.learnUpdate
  split
  · dsimp only
    split
    · exact hsampled _
    · exact (hsampled _).learnBias _
  · exact closeBin_sized h _

theorem closeNewest_length (duration bound : Nat) (e1 : Int) (score : Nat) (es : List Episode) :
    (closeNewest duration bound e1 score es).length = es.length := by cases es <;> rfl

/-- An entry to HOLDOVER alone lengthens the episode list, and it keeps the newest 16 (R118, R138). -/
theorem decideUpdate_episodes_length_le {v : State} (h : v.hop.episodes.length ≤ 16) (x : LoopInput) :
    (v.decideUpdate x).st.hop.episodes.length ≤ 16 := by
  have hfollow : ∀ f r e, (v.follow f r e).st.hop = v.hop := fun f r e => by
    unfold State.follow
    dsimp only
    split
    · rfl
    · split
      · rfl
      · split <;> rfl
  have hlose : ∀ f, (v.loseReference f x).st.hop.episodes.length ≤ 16 := fun f => by
    obtain ⟨tp, hst⟩ := loseReference_st v f x
    obtain ⟨_, _, _, _, _, _, _, hsteered⟩ := entrySteered_hop v f x
    rw [hst]
    dsimp only
    rw [hsteered, episodeOpened_hop]
    exact List.length_take_le ..
  have hfollowing : ∀ f, (v.decideFollowing f x).st.hop.episodes.length ≤ 16 := fun f => by
    unfold State.decideFollowing
    split
    · exact hlose f
    · rw [hfollow]
      exact h
    · exact h
  have hholding : ∀ m, (v.runHoldover m x).st.hop.episodes = v.hop.episodes := fun m => by
    rw [runHoldover_st]
    unfold State.holdoverUpdate
    dsimp only
    split
    · split <;> rfl
    · rfl
  unfold State.decideUpdate
  split
  · split <;> exact h
  · exact hfollowing _
  · exact hfollowing _
  · split
    · rw [(regain_closes v _ _).1]
      exact (closeNewest_length _ _ _ _ _).trans_le h
    · rw [hholding]
      exact h

/-- A loop update keeps the sizes of the model and of the list. -/
theorem loopUpdate_modelSized {s : State} (h : ModelSized s) (hrunning : s.running = true) (order : List UpdatePart) :
    ∃ u, exec (.loopUpdate order) s = .next u ∧ ModelSized u := by
  obtain ⟨u, v, hexec, hframe, rfl, -, hhop, -, -, hlrn⟩ := update_decided s order hrunning
  obtain ⟨hmodel, hepisodes⟩ := (modelSized_iff _).1 (hframe.modelSized h)
  refine ⟨u, hexec, (modelSized_iff u).2 ⟨?_, ?_⟩⟩
  · rw [hlrn, handOn_lrn]
    refine learnUpdate_sized ?_ _ _
    show (State.decideUpdate _ _).st.lrn.model.Sized
    rcases (decideUpdate_keeps (atLoop order s).spendEstimates ((atLoop order s).readLoop (gateOffset s))).1 with hkept | hclosed
    · rw [hkept]
      exact hmodel
    · rw [hclosed]
      exact closeBin_sized hmodel _
  · rw [hhop]
    exact decideUpdate_episodes_length_le hepisodes _

/-! ## Every command -/

theorem exec_modelSized {c : Instr} {s u : State} (h : ModelSized s) (hexec : exec c s = .next u) : ModelSized u := by
  cases c with
  | hardwareReset cause progress =>
    cases hexec
    exact (modelSized_iff _).2 ⟨Model.sized_cleared, Nat.zero_le _⟩
  | resetRelease =>
    cases hexec
    split <;> exact h
  | loopUpdate order =>
    cases hrunning : s.running with
    | true =>
      obtain ⟨u', hexec', hsized⟩ := loopUpdate_modelSized h hrunning order
      cases hexec'.symm.trans hexec
      exact hsized
    | false =>
      cases (whileRunning_held s (fun s => s.update order) hrunning).symm.trans hexec
      exact h
  | siteLoad a => exact exec_preserves ModelSized hexec (fun _ => rfl) h (by split <;> exact h)
  | modelLoad t a =>
    exact exec_preserves ModelSized hexec (fun _ => rfl) h (by
      dsimp only
      split
      · exact loadModel_modelSized (s := s.advanceTo t) h _
      · exact h)
  | epoch => exact exec_preserves ModelSized hexec (fun _ => rfl) h (raiseEpoch_modelSized h)
  | autosave => exact exec_preserves ModelSized hexec (fun _ => rfl) h (by split <;> [split <;> exact h; exact h])
  | holdOffExpiry r =>
    exact exec_preserves ModelSized hexec (fun _ => rfl) h (by
      split
      · exact (RquFrame.finish (.expire (.refl s))).modelSized h
      · exact h)
  | settlingExpiry => exact exec_preserves ModelSized hexec (fun _ => rfl) h (by split <;> exact h)
  | pulseArrival p t =>
    exact exec_preserves ModelSized hexec (fun _ => rfl) h ((RquFrame.pulse (.refl (s.advanceTo t))).modelSized h)
  | staleTimerExpiry k =>
    exact exec_preserves ModelSized hexec (fun _ => rfl) h (by
      split
      · exact (RquFrame.staleExpiry (.refl s)).modelSized h
      · exact h)
  | pulseDue k => exact exec_preserves ModelSized hexec (fun _ => rfl) h (by split <;> exact h)
  | pulseEnd k => exact exec_preserves ModelSized hexec (fun _ => rfl) h (by split <;> [exact h; split <;> exact h])
  | attentionPulseEnd k => exact exec_preserves ModelSized hexec (fun _ => rfl) h (by split <;> [exact h; split <;> exact h])
  | vctlSample => exact exec_preserves ModelSized hexec (fun _ => rfl) h (by split <;> exact h)
  | sequenceComplete t raw =>
    exact exec_preserves ModelSized hexec (fun _ => rfl) h (by
      dsimp only
      split
      · exact completeSequence_modelSized (s := s.advanceTo t) h raw
      · exact h)
  | frameReceived k t bytes =>
    exact exec_preserves ModelSized hexec (fun _ => rfl) h (by
      dsimp only
      split
      · exact receive_modelSized (s := (s.advanceTo t).onPort k (fun p => p.finish bytes.length)) h k _
      · exact h)
  | saveEnd t clean =>
    exact exec_preserves ModelSized hexec (fun _ => rfl) h (by
      split
      · exact endSave_modelSized (s := s.advanceTo t) h _ _ _ _
      · exact h)
  | saveTimeout t progress =>
    exact exec_preserves ModelSized hexec (fun _ => rfl) h (by
      split
      · exact endSave_modelSized (s := s.advanceTo t) h _ _ _ _
      · exact h)
  | powerFailWarning => exact exec_preserves ModelSized hexec (fun _ => rfl) h (by split <;> [exact h; split <;> exact h; exact h])
  | slewTick _ | f1Edge _ | companionRecord _ _ | sensorSequenceStart | transactionStart _ | statusByteClockedOut _ =>
    exact exec_preserves ModelSized hexec (fun _ => rfl) h h
  | _ => -- the requests
    exact exec_preserves ModelSized hexec (fun _ => rfl) h (request_modelSized h _ _ _)

end Sys2Proof.Machine
end

section
/-! SUPPORT. What a MODEL CLEAR answers and clears (R112, R133). -/

namespace Sys2Proof.Machine

open Sys2Proof Sys2Proof.Safety

/-- A MODEL CLEAR that is refused only responds. -/
theorem answerModelClear_refused (s : State) (k : Port) (h : s.clearResult ≠ .ok) :
    answerModelClear k s = s.respond k 0x0B (resultOnly s.clearResult) := by
  unfold answerModelClear
  dsimp only
  rw [if_neg h]

/-- A MODEL CLEAR that is not refused clears the model, reports the health it changed, and responds. -/
theorem answerModelClear_ok (s : State) (k : Port) (h : s.clearResult = .ok) :
    answerModelClear k s = (s.clearModel.reportHealth s).respond k 0x0B (resultOnly .ok) := by
  unfold answerModelClear
  dsimp only
  rw [if_pos h, h]

theorem clearResult_frozen (s : State) (h : s.sst.frozen = true) : s.clearResult = .frozen := if_pos h

theorem clearResult_idle (s : State) (hfrozen : s.sst.frozen = false) (hidle : s.stc.store = .idle) : s.clearResult = .ok := by
  simp [State.clearResult, hfrozen, hidle]

theorem clearResult_busy (s : State) (hfrozen : s.sst.frozen = false) (hbusy : s.stc.store ≠ .idle) : s.clearResult = .busy := by
  unfold State.clearResult
  rw [hfrozen]
  cases hstore : s.stc.store with
  | idle => exact absurd hstore hbusy
  | _ => rfl

/-- A health report leaves a queue that takes a frame. -/
theorem reportHealth_takesFrame (s before : State) (k : Port) (h : (s.tp.get k).takesFrame) : ((s.reportHealth before).tp.get k).takesFrame := by
  unfold State.reportHealth
  dsimp only
  split
  · exact h
  · exact noticeAll_takesFrame _ _ _ k h

/-- At the dispatch of a request on a ready port its queue takes a frame. -/
theorem atDispatch_takesFrame (s : State) (k : Port) (t : Nat) (h : Ready s k t) : ((atDispatch s k t).tp.get k).takesFrame := by
  have hport : (atDispatch s k t).tp.get k = collected (s.tp.get k) := perPort_get_set_same _ _ _
  rw [hport]
  exact .inl (collected_places _ h.2.2)

end Sys2Proof.Machine
end

section
/-! SUPPORT. What a bin teaches the table, what the table gives, and what the slope is fitted to, in the terms of the statements (R102 to R108). -/

namespace Sys2Proof.Machine

open Sys2Proof Sys2Proof.Safety

/-! ## A bin that teaches the table (R105 to R107) -/

/-- The model that an undisturbed bin teaches: it gives the anchor, or moves its table entry. -/
def Model.taught (m : Model) (b : Bin) : Model :=
  if b.disturbed then m
  else match m.anchor with
    | none => m.takeAnchor b
    | some a => m.updateTable a b

theorem learn_eq (m : Model) (alarm : Bool) (b : Bin) : m.learn alarm b = (m.taught b).fitSlope alarm := rfl

theorem tableIndex_eq (t : Int) : tableIndex t = (max 0 (min 63 ((t + 640) / 32))).toNat := by
  unfold tableIndex
  rw [clamp_eq_max_min _ _ _ (by decide)]

theorem taught_anchor (m : Model) (b : Bin) (h : b.disturbed = false) (hnone : m.anchor = none) : m.taught b =
    { m with anchor := some ⟨b.centre, nearest b.mean 16⟩, table := m.table.set (tableIndex b.temp) ⟨0, 1⟩ } := by
  unfold Model.taught
  rw [h, hnone]
  rfl

/-- The table entry moved toward a residual (R107). -/
theorem update_eq (x : TableEntry) (r : Int) : x.update r =
    ⟨clampAbs 2000000 (if x.w = 0 then r else x.v + nearest (r - x.v) (min (x.w + 1) 16 : Nat)), min 255 (x.w + 1)⟩ := by
  unfold TableEntry.update
  rw [satSucc_eq_min]
  push_cast
  rfl

theorem taught_entry (m : Model) (b : Bin) (a : Anchor) (h : b.disturbed = false) (ha : m.anchor = some a) :
    let r := nearest b.mean 16 - (a.freq + nearest (m.slope * secDiff b.centre a.time) 1382400)
    m.taught b = { m with table := m.table.set (tableIndex b.temp) ((m.entry (tableIndex b.temp)).update r) } := by
  have hmoved : m.taught b = m.updateTable a b := by
    unfold Model.taught
    rw [h, ha]
    rfl
  exact hmoved

/-! ## The search of the table (R103) -/

/-- A search finds nothing, or an entry that is not empty. -/
theorem foldl_nearer_cases (m : Model) (p : Int) (ks : List Nat) :
    ks.foldl (m.nearer p) none = none ∨ ∃ k ∈ ks, (m.entry k).w ≠ 0 ∧ ks.foldl (m.nearer p) none = some k := by
  induction ks using List.reverseRecOn with
  | nil => exact .inl rfl
  | append_singleton ks k ih =>
    rw [List.foldl_concat]
    by_cases hempty : (m.entry k).w = 0
    · have hkept : ∀ best, m.nearer p best k = best := fun best => if_pos hempty
      rw [hkept]
      exact ih.imp_right fun ⟨j, hj, hfull, hfound⟩ => ⟨j, List.mem_append_left _ hj, hfull, hfound⟩
    · right
      rcases ih with hnone | ⟨j, hj, hfull, hfound⟩
      · rw [hnone]
        simp [Model.nearer, hempty]
      · rw [hfound]
        simp only [Model.nearer, hempty, if_false]
        split
        · exact ⟨k, by simp, hempty, rfl⟩
        · exact ⟨j, List.mem_append_left _ hj, hfull, rfl⟩

/-- A search without an entry to find. -/
theorem foldl_nearer_empty (m : Model) (p : Int) (ks : List Nat) (h : ∀ k ∈ ks, (m.entry k).w = 0) : ks.foldl (m.nearer p) none = none :=
  (foldl_nearer_cases m p ks).resolve_right fun ⟨k, hk, hfull, _⟩ => hfull (h k hk)

/-- An entry found stays unless one that is not empty is strictly nearer. -/
theorem foldl_nearer_stays (m : Model) (p : Int) (k : Nat) (ks : List Nat)
    (h : ∀ j ∈ ks, (m.entry j).w ≠ 0 → ((32 * k : Int) - p).natAbs ≤ ((32 * j : Int) - p).natAbs) :
    ks.foldl (m.nearer p) (some k) = some k := by
  refine List.foldlRecOn (motive := fun best => best = some k) ks _ rfl fun best hbest j hj => ?_
  subst hbest
  unfold Model.nearer
  split
  · rfl
  · next hfull => exact if_neg (Nat.not_lt.2 (h j hj hfull))

/-- Of indices in ascending order a search takes the nearest that is not empty, and of two equally near the lower (R103). -/
theorem foldl_nearer_nearest (m : Model) (p : Int) (ks : List Nat) (hsorted : ks.Pairwise (· < ·)) (k : Nat) (hk : k ∈ ks)
    (hfull : (m.entry k).w ≠ 0)
    (hnearest : ∀ j ∈ ks, (m.entry j).w ≠ 0 → ((32 * k : Int) - p).natAbs < ((32 * j : Int) - p).natAbs ∨
      (((32 * k : Int) - p).natAbs = ((32 * j : Int) - p).natAbs ∧ k ≤ j)) :
    ks.foldl (m.nearer p) none = some k := by
  obtain ⟨before, after, rfl⟩ := List.append_of_mem hk
  have hbefore : m.nearer p (before.foldl (m.nearer p) none) k = some k := by
    rcases foldl_nearer_cases m p before with hnone | ⟨j, hj, hfull', hfound⟩
    · simp [hnone, Model.nearer, hfull]
    · have hlower : j < k := (List.pairwise_append.1 hsorted).2.2 j hj k List.mem_cons_self
      have := hnearest j (List.mem_append_left _ hj) hfull'
      simp only [hfound, Model.nearer, hfull, if_false]
      exact if_pos (by omega)
  rw [List.foldl_append, List.foldl_cons, hbefore]
  refine foldl_nearer_stays m p k after fun j hj hfull' => ?_
  have := hnearest j (List.mem_append_right _ (List.mem_cons_of_mem _ hj)) hfull'
  omega

/-- The indices that a search about `i` looks at (R103). -/
def searched (i : Nat) : List Nat := (List.range 64).filter (fun k => decide (i ≤ k + 4 ∧ k ≤ i + 4))

theorem mem_searched (i k : Nat) : k ∈ searched i ↔ k ≤ 63 ∧ i ≤ k + 4 ∧ k ≤ i + 4 := by
  simp only [searched, List.mem_filter, List.mem_range, decide_eq_true_eq]
  omega

theorem searched_sorted (i : Nat) : (searched i).Pairwise (· < ·) := List.pairwise_lt_range.filter _

theorem search_eq (m : Model) (p : Int) (i : Nat) : m.search p i =
    match (searched i).foldl (m.nearer p) none with
    | some k => ⟨40, some (m.entry k).v⟩
    | none => ⟨200, none⟩ := rfl

/-- A search among empty entries fails. -/
theorem search_empty (m : Model) (p : Int) (i : Nat) (h : ∀ k ∈ searched i, (m.entry k).w = 0) : m.search p i = ⟨200, none⟩ := by
  rw [search_eq, foldl_nearer_empty m p _ h]

/-- A search takes the nearest entry that is not empty, and of two equally near the lower. -/
theorem search_nearest (m : Model) (p : Int) (i k : Nat) (hk : k ∈ searched i) (hfull : (m.entry k).w ≠ 0)
    (hnearest : ∀ j ∈ searched i, (m.entry j).w ≠ 0 → ((32 * k : Int) - p).natAbs < ((32 * j : Int) - p).natAbs ∨
      (((32 * k : Int) - p).natAbs = ((32 * j : Int) - p).natAbs ∧ k ≤ j)) :
    m.search p i = ⟨40, some (m.entry k).v⟩ := by
  rw [search_eq, foldl_nearer_nearest m p _ (searched_sorted i) k hk hfull hnearest]

/-! ## The lookup (R102 to R104) -/

/-- An end of the table is used alone. -/
theorem lookupAlone_eq (m : Model) (p : Int) (i : Nat) : m.lookupAlone p i =
    if 16 ≤ (m.entry i).w then ⟨2, some (m.entry i).v⟩ else if 1 ≤ (m.entry i).w then ⟨8, some (m.entry i).v⟩ else m.search p i := by
  unfold Model.lookupAlone
  dsimp only
  split
  · next hempty => rw [if_neg (by omega), if_neg (by omega)]
  · next hfull =>
    split
    · rfl
    · rw [if_pos (by omega)]

/-- Two neighbours are interpolated, or one of them stands alone. -/
theorem lookupPair_eq (m : Model) (p : Int) (i : Nat) (frac : Int) :
    let x := m.entry i
    let y := m.entry (i + 1)
    let between := x.v + nearest ((y.v - x.v) * frac) 32
    m.lookupPair p i frac =
      if 16 ≤ x.w ∧ 16 ≤ y.w then ⟨2, some between⟩
      else if 1 ≤ x.w ∧ 1 ≤ y.w then ⟨8, some between⟩
      else if 1 ≤ x.w then ⟨40, some x.v⟩
      else if 1 ≤ y.w then ⟨40, some y.v⟩
      else m.search p i := by
  intro x y between
  show (if x.w = 0 ∧ y.w = 0 then m.search p i else if x.w = 0 then ⟨40, some y.v⟩ else if y.w = 0 then ⟨40, some x.v⟩
    else ⟨if 16 ≤ x.w ∧ 16 ≤ y.w then 2 else 8, some between⟩ : Lookup) = _
  by_cases hx : x.w = 0 <;> by_cases hy : y.w = 0
  · rw [if_pos ⟨hx, hy⟩, if_neg (by omega), if_neg (by omega), if_neg (by omega), if_neg (by omega)]
  · rw [if_neg (by omega), if_pos hx, if_neg (by omega), if_neg (by omega), if_neg (by omega), if_pos (by omega)]
  · rw [if_neg (by omega), if_neg hx, if_pos hy, if_neg (by omega), if_neg (by omega), if_pos (by omega)]
  · rw [if_neg (by omega), if_neg hx, if_neg hy]
    split
    · rfl
    · rw [if_pos (by omega)]

/-- A temperature beyond either end of the table's entries. -/
theorem lookup_end (m : Model) (t : Int) (h : t + 624 < 0 ∨ 2016 ≤ t + 624) :
    m.lookup false t = m.lookupAlone (t + 624) (if t + 624 < 0 then 0 else 63) := by
  unfold Model.lookup
  simp only [Bool.false_eq_true, if_false]
  split
  · rfl
  · next hlow => exact if_pos (by omega)

theorem lookup_between (m : Model) (t : Int) (hlow : 0 ≤ t + 624) (hhigh : t + 624 < 2016) :
    m.lookup false t = m.lookupPair (t + 624) ((t + 624) / 32).toNat ((t + 624) % 32) := by
  unfold Model.lookup
  simp only [Bool.false_eq_true, if_false]
  rw [if_neg (by omega), if_neg (by omega)]

/-! ## The slope (R108) -/

/-- The fit bins: those undisturbed whose lookup does not fail. -/
def Model.fits (m : Model) (alarm : Bool) : List Bin :=
  m.history.filter (fun b => !b.disturbed && (m.lookup alarm b.temp).value.isSome)

/-- The value that a fit bin gives the fit. -/
def Model.fitValue (m : Model) (alarm : Bool) (b : Bin) : Int := nearest b.mean 16 - (m.lookup alarm b.temp).value.getD 0

theorem fitPoints_eq (m : Model) (alarm : Bool) : m.fitPoints alarm = (m.fits alarm).map (fun b => (m.fitValue alarm b, b.centre)) := by
  unfold Model.fitPoints Model.fits
  induction m.history with
  | nil => rfl
  | cons b bs ih =>
    rw [List.filterMap_cons, List.filter_cons, ih]
    unfold Model.fitPoint
    cases hdisturbed : b.disturbed with
    | true => simp
    | false => cases hvalue : (m.lookup alarm b.temp).value <;> simp [Model.fitValue, hvalue, Bin.freq]

theorem groupSums_eq (origin : Sec) (xs : List (Int × Sec)) :
    groupSums origin xs = ((xs.map (fun x => x.1)).sum, (xs.map (fun x => secDiff x.2 origin)).sum) := by
  have hfrom : ∀ acc : Int × Int, xs.foldl (fun acc x => (acc.1 + x.1, acc.2 + secDiff x.2 origin)) acc =
      (acc.1 + (xs.map (fun x => x.1)).sum, acc.2 + (xs.map (fun x => secDiff x.2 origin)).sum) := by
    induction xs with
    | nil => simp
    | cons x xs ih =>
      intro acc
      rw [List.foldl_cons, ih]
      simp [add_assoc]
  simpa [groupSums] using hfrom (0, 0)

/-- The sums of a group of fit bins (R108). -/
theorem groupSums_fits (m : Model) (alarm : Bool) (origin : Sec) (bs : List Bin) :
    groupSums origin (bs.map (fun b => (m.fitValue alarm b, b.centre))) =
      ((bs.map (m.fitValue alarm)).sum, (bs.map (fun b => secDiff b.centre origin)).sum) := by
  simp [groupSums_eq, Function.comp_def]

theorem fittedSlope_of_pos (old new : Int × Int) (h : 0 < new.2 - old.2) :
    fittedSlope old new = nearest (1382400 * (new.1 - old.1)) (new.2 - old.2) := by
  unfold fittedSlope
  dsimp only
  rw [if_neg (by omega), if_neg (by omega)]

/-- The fit of the slope, by the fit bins (R108). -/
theorem fitSlope_eq (m : Model) (alarm : Bool) :
    let fits := m.fits alarm
    let origin : Sec := (fits.head?.map (fun b => b.centre)).getD 0
    let newest : Sec := (fits.getLast?.map (fun b => b.centre)).getD 0
    let point (b : Bin) : Int × Sec := (m.fitValue alarm b, b.centre)
    m.fitSlope alarm =
      if 48 ≤ fits.length ∧ 43200 ≤ secDiff newest origin then
        { m with
          slope := clampAbs 320000 (m.slope + nearest (fittedSlope (groupSums origin ((fits.take 16).map point))
            (groupSums origin ((fits.drop (fits.length - 16)).map point)) - m.slope) 4)
          slopeValid := true }
      else m := by
  unfold Model.fitSlope
  rw [fitPoints_eq]
  cases m.fits alarm with
  | nil => rfl
  | cons b bs =>
    simp only [List.head?_map, List.getLast?_map, List.head?_cons, List.getLast?_eq_some_getLast (List.cons_ne_nil b bs), Option.map_some,
      Option.getD_some, List.length_map, List.map_take, List.map_drop]

end Sys2Proof.Machine
end

section
/-! SUPPORT. What a loop update leaves of the Learning Unit: the sample and the F1 bias where it ends in LOCKED, the open bin closed where it does
not (R98 to R100, R109). -/

namespace Sys2Proof.Machine

open Sys2Proof Sys2Proof.Safety

theorem toscAlarm_eq (s : State) : s.toscAlarm = (s.ssq.alarms.tosc.state != .inRange) := by
  unfold State.toscAlarm
  cases s.ssq.alarms.tosc.state <;> rfl

/-- The DAC's record keeps its steering state where it takes an f_out (R142). -/
theorem take_steering (d : Sdc) (r : SiteRecord) (f : Int) : (d.take r f).steering = d.steering := by
  unfold Sdc.take
  dsimp only
  split
  · rfl
  · split <;> rfl

/-- An update's decision leaves the sensors (R71). -/
theorem decideUpdate_ssq (v : State) (x : LoopInput) : (v.decideUpdate x).st.ssq = v.ssq := by
  obtain ⟨-, hkept⟩ := decideUpdate_keeps v x
  rw [hkept]

/-- The open bin with a learning sample, or the bin that the sample opens (R98, R99). -/
def Lrn.sampled (l : Lrn) (now : Sec) (i temp : Int) (disturbed : Bool) : OpenBin :=
  match l.openBin with
  | none => OpenBin.first now i temp disturbed
  | some o => o.add now i temp disturbed

/-- The model after a bin's close: a bin of 300 samples or more is kept (R100). -/
def Model.closed (m : Model) (alarm : Bool) (o : OpenBin) : Model := if o.samples < 300 then m else m.keep alarm o.close

/-- The model after the F1 bias's move, where an offset steers (R109). -/
def Model.biased (m : Model) (d : Option Int) : Model :=
  match d with
  | none => m
  | some d => m.learnBias d

theorem closeBin_closed (l : Lrn) (alarm : Bool) : l.closeBin alarm = { l with
    openBin := none
    model := match l.openBin with
      | none => l.model
      | some o => l.model.closed alarm o } := closeBin_eq l alarm

theorem sample_sampled (l : Lrn) (alarm : Bool) (now : Sec) (i temp : Int) (disturbed : Bool) :
    let o := l.sampled now i temp disturbed
    l.sample alarm now i temp disturbed =
      if o.samples = 900 then { l with openBin := none, model := l.model.closed alarm o } else { l with openBin := some o } := by
  intro o
  have hsample : l.sample alarm now i temp disturbed =
      if o.samples = 900 then { l with openBin := some o }.closeBin alarm else { l with openBin := some o } := rfl
  rw [hsample, closeBin_closed]

/-- The Learning Unit's part of an update that ends in LOCKED: the sample, where there is a TOSC result, and the F1 bias. -/
theorem learnUpdate_locked (s : State) (old : Engine) (x : LoopInput) (f : PhaseRef) (h : s.dlp.engine = .locked f) :
    (s.learnUpdate old x).lrn =
      match s.tosc with
      | none => { s.lrn with model := s.lrn.model.biased x.steering }
      | some temp =>
        let o := s.lrn.sampled s.tsu.seconds s.dlp.integral temp (s.disturbing (followedChanged old (.locked f)))
        if o.samples = 900 then { s.lrn with openBin := none, model := (s.lrn.model.closed s.toscAlarm o).biased x.steering }
        else { s.lrn with openBin := some o, model := s.lrn.model.biased x.steering } := by
  have hbiased : ∀ v : State, (match x.steering with
      | none => v
      | some d => { v with lrn := { v.lrn with model := v.lrn.model.learnBias d } } : State).lrn =
      { v.lrn with model := v.lrn.model.biased x.steering } := fun v => by cases x.steering <;> rfl
  have hupdate : (s.learnUpdate old x).lrn =
      { (s.learn (followedChanged old (.locked f))).lrn with model := (s.learn (followedChanged old (.locked f))).lrn.model.biased x.steering } := by
    unfold State.learnUpdate
    rw [h]
    exact hbiased _
  rw [hupdate]
  unfold State.learn
  cases s.tosc with
  | none => rfl
  | some temp =>
    dsimp only
    rw [sample_sampled]
    split <;> rfl

/-- The Learning Unit's part of an update that ends in another state. -/
theorem learnUpdate_unlocked (s : State) (old : Engine) (x : LoopInput) (h : s.dlp.engine.isLocked = false) :
    (s.learnUpdate old x).lrn = s.lrn.closeBin s.toscAlarm := by
  unfold State.learnUpdate
  rw [h]
  rfl

/-- The part as the learning of an update finds it: the DAC's and the loop's records as the update leaves them, the sensors' results as
they were, and what the learning leaves (R71, R98). -/
theorem update_taught (s : State) (order : List UpdatePart) (h : s.running = true) :
    ∃ u w : State, exec (.loopUpdate order) s = .next u ∧ w.dlp = u.dlp ∧ w.sdc = u.sdc ∧ u.sdc.steering = s.sdc.steering ∧ w.ssq = s.ssq ∧
      (w.lrn = s.lrn ∨ w.lrn = s.lrn.closeBin s.toscAlarm) ∧
      (u.dlp.engine.isLocked = true → w.lrn = s.lrn ∧ w.tsu.seconds = s.tsu.seconds) ∧
      u.lrn = { (w.learnUpdate s.dlp.engine ((atLoop order s).readLoop (gateOffset s))).lrn with verdict := u.lrn.verdict } := by
  obtain ⟨u, v, hexec, hframe, rfl, hdlp, -, hsdc, -, hlrn⟩ := update_decided s order h
  obtain ⟨-, hdac, -, -, hlearned, hssq, hseconds, -⟩ := frame_site hframe
  obtain ⟨-, -, hrecord, -⟩ := frame_site (atLoop_frame s order)
  obtain ⟨hclosed, -⟩ := decideUpdate_keeps (atLoop order s).spendEstimates ((atLoop order s).readLoop (gateOffset s))
  have halarm : (atLoop order s).spendEstimates.toscAlarm = s.toscAlarm := congrArg (fun y : Ssq => y.alarms.tosc.state.raised) hssq
  rw [hlearned, halarm] at hclosed
  rw [handOn_lrn, hrecord] at hlrn
  have hverdict := congrArg Lrn.verdict hlrn
  dsimp only at hverdict
  rw [← hverdict] at hlrn
  refine ⟨u, (s.updateDecision order).st.steer, hexec, hdlp.symm, hsdc.symm, ?_, ?_, hclosed, fun hlocked => ?_, hlrn⟩
  · rw [hsdc, take_steering, decideUpdate_sdc, hdac]
  · rw [State.steer_ssq, decideUpdate_ssq, hssq]
  · rw [hdlp] at hlocked
    rw [State.steer_lrn, State.steer_tsu, decideUpdate_locked _ _ hlocked]
    dsimp only
    exact ⟨hlearned, hseconds⟩

/-- What a loop update that does not end in LOCKED leaves: the open bin closed (R100). -/
theorem update_closes (s : State) (order : List UpdatePart) (h : s.running = true) :
    ∃ u, exec (.loopUpdate order) s = .next u ∧ (u.dlp.engine.isLocked = false → u.lrn = { s.lrn with
      openBin := none
      model := match s.lrn.openBin with
        | none => s.lrn.model
        | some o => s.lrn.model.closed s.toscAlarm o
      verdict := u.lrn.verdict }) := by
  obtain ⟨u, w, hexec, hdlp, -, -, hssq, hclosed, -, hlrn⟩ := update_taught s order h
  have halarm : w.toscAlarm = s.toscAlarm := congrArg (fun y : Ssq => y.alarms.tosc.state.raised) hssq
  have hclose : w.lrn.closeBin s.toscAlarm = s.lrn.closeBin s.toscAlarm := by
    rcases hclosed with hclosed | hclosed
    · rw [hclosed]
    · rw [hclosed, closeBin_twice]
  refine ⟨u, hexec, fun hunlocked => ?_⟩
  rw [learnUpdate_unlocked w _ _ (hdlp ▸ hunlocked), halarm, hclose, closeBin_closed] at hlrn
  exact hlrn

theorem followedChanged_locked (old : Engine) (f : PhaseRef) : followedChanged old (.locked f) =
    match old with
    | .locked g => g != f
    | _ => false := by cases old <;> rfl

/-- The circumstances that disturb a bin, beside a change of the followed reference and the TOSC alarm (R99). -/
theorem disturbing_eq (s : State) (changed : Bool) : s.disturbing changed =
    (changed || decide (s.lrn.warmup = .warming ∨ s.sdc.atLimit ≠ .clear ∨ s.sdc.steering = .held) || s.toscAlarm) := by
  unfold State.disturbing
  simp only [Bool.decide_or, decide_not, bne, beq_eq_decide, Bool.or_assoc]

/-- The F1 bias moves by the d of a gate that closed while F1 is available (R66, R109). -/
theorem biased_readLoop (m : Model) (s : State) (d : Option Int) : m.biased (s.readLoop d).steering =
    if (s.record .f1).state = .qualified then
      match d with
      | none => m
      | some d => { m with f1Bias := clampAbs 10000000 (m.f1Bias + nearest (d - m.f1Bias) 64) }
    else m := by
  split
  · next havailable =>
    rw [steering_of_qualified s d havailable]
    cases d <;> rfl
  · next hunavailable =>
    have hnone : (s.readLoop d).steering = none := if_neg (by
      show ¬s.f1Available = true
      rw [f1Available_eq, decide_eq_true_eq]
      exact hunavailable)
    rw [hnone]
    rfl

/-- What a loop update that ends in LOCKED leaves: the sample taken, where there is a TOSC result, and the F1 bias moved (R98, R99, R109). -/
theorem update_samples (s : State) (order : List UpdatePart) (h : s.running = true) :
    ∃ u, exec (.loopUpdate order) s = .next u ∧ ∀ f, u.dlp.engine = .locked f →
      let d := ((atLoop order s).readLoop (gateOffset s)).steering
      let disturbed := followedChanged s.dlp.engine (.locked f) ||
        decide (s.lrn.warmup = .warming ∨ u.sdc.atLimit ≠ .clear ∨ s.sdc.steering = .held) || s.toscAlarm
      u.lrn = match s.tosc with
        | none => { s.lrn with model := s.lrn.model.biased d, verdict := u.lrn.verdict }
        | some temp =>
          let o := s.lrn.sampled s.tsu.seconds u.dlp.integral temp disturbed
          if o.samples = 900 then
            { s.lrn with openBin := none, model := (s.lrn.model.closed s.toscAlarm o).biased d, verdict := u.lrn.verdict }
          else { s.lrn with openBin := some o, model := s.lrn.model.biased d, verdict := u.lrn.verdict } := by
  obtain ⟨u, w, hexec, hdlp, hsdc, hsteering, hssq, -, hkept, hlrn⟩ := update_taught s order h
  refine ⟨u, hexec, fun f hlocked => ?_⟩
  obtain ⟨hlearned, hseconds⟩ := hkept (by rw [hlocked]; rfl)
  have htosc : w.tosc = s.tosc := congrArg (fun y : Ssq => y.results.tosc) hssq
  have halarm : w.toscAlarm = s.toscAlarm := congrArg (fun y : Ssq => y.alarms.tosc.state.raised) hssq
  rw [learnUpdate_locked w _ _ f (hdlp ▸ hlocked), disturbing_eq, hlearned, hseconds, htosc, halarm, hdlp, hsdc, hsteering] at hlrn
  refine hlrn.trans ?_
  cases s.tosc with
  | none => rfl
  | some temp =>
    dsimp only
    split <;> rfl

end Sys2Proof.Machine
end

section
/-! The statements about learning the oscillator, settled. -/

namespace Sys2Proof.OscillatorLearning

open Sys2Proof Sys2Proof.Machine Sys2Proof.Safety

/-- Settles O33: on an empty queue the part idles, and every command keeps the sizes. -/
theorem modelStaysSized : Obligations.ModelStaysSized := by
  intro s u h hstep
  unfold step at hstep
  split at hstep
  · cases hstep
    exact h
  · next rest _ => exact exec_modelSized (s := { s with pending := rest }) h hstep

/-- Settles O52: a MODEL CLEAR is refused by a response, or clears the model before the response. -/
theorem modelCleared : Obligations.ModelCleared := by
  intro k t s hready hloaded
  have hrefused : ∀ r : ResultCode, s.clearResult = r → r ≠ .ok → exec (.modelClear k t) s = .next (answered s k t 0x0B (resultOnly r)) :=
    fun r hr hne => exec_command_responded s k t .modelClear 0x0B (resultOnly r) hready hloaded
      (hr ▸ answerModelClear_refused (atDispatch s k t) k (hr.symm ▸ hne))
  refine ⟨fun hfrozen => ?_, fun hfrozen hbusy => ?_, fun hfrozen hidle => ?_⟩
  · exact hrefused .frozen (clearResult_frozen s hfrozen) (by decide)
  · exact hrefused .busy (clearResult_busy s hfrozen hbusy) (by decide)
  · have hexec := exec_command_answered s k t .modelClear hready hloaded
    have hanswer := answerModelClear_ok (atDispatch s k t) k (clearResult_idle s hfrozen hidle)
    have hlast := respond_last_of_takesFrame ((atDispatch s k t).clearModel.reportHealth (atDispatch s k t)) k 0x0B (resultOnly .ok)
      (reportHealth_takesFrame _ _ k (atDispatch_takesFrame s k t hready))
    obtain ⟨tp, hreport⟩ := reportHealth_keeps (atDispatch s k t).clearModel (atDispatch s k t)
    rw [hreport] at hanswer hlast
    exact ⟨_, hexec.trans (congrArg Host.Outcome.next hanswer), rfl, rfl, ⟨_, hlast, rfl, rfl⟩,
      rfl, rfl, rfl, rfl, rfl, rfl, rfl, rfl, rfl, rfl⟩

/-- Settles O37: each part of the end of a sequence, then an alarm's result by the alarm's state. -/
theorem sequenceCompleted : Obligations.SequenceCompleted := by
  constructor
  · intro t raw s ⟨hrunning, hphase, hinterval⟩ hprogress
    have hexec : exec (.sequenceComplete t raw) s = .next ((atPhase s t).completeSequence raw) := by
      rw [exec_sequenceComplete s hrunning, advanceTo_timely s t hphase hinterval]
      exact congrArg Host.Outcome.next (if_pos hprogress)
    obtain ⟨l, tp, hkept⟩ := completeSequence_keeps (atPhase s t) raw
    have hwarmed := completeSequence_warms (atPhase s t) raw
    have hbin := completeSequence_openBin (atPhase s t) raw
    have hmodel := completeSequence_model (atPhase s t) raw
    have hverdict := (completeSequence_verdict (atPhase s t) raw).trans (deriveVerdict_eq _ _ _)
    have hssq : ((atPhase s t).completeSequence raw).ssq = s.ssq.complete s.site raw := by rw [hkept]; rfl
    have hsdc : ((atPhase s t).completeSequence raw).sdc = s.sdc.readbackStep s.site (resultsOf raw).vctl := by rw [hkept]; rfl
    have hresults : ((atPhase s t).completeSequence raw).ssq.results = resultsOf raw := by rw [hssq]; rfl
    refine ⟨_, hexec, by rw [hkept]; rfl, by rw [hkept]; rfl, by rw [hkept]; rfl, ?_, ?_, hwarmed, hbin, ?_, hverdict, hmodel, ?_⟩
    · rw [hresults]
      exact ⟨rfl, correctedCount_map _ _ (fun n => n - 1024), correctedCount_map _ _ (fun n => n - 1024),
        correctedCount_map _ _ (fun n => 4 * n), correctedCount_map _ _ (fun n => n), correctedCount_map _ _ (fun n => 256 * n)⟩
    · rw [hresults, hsdc]
      exact readbackStep_eq _ _ _
    · rw [hresults, hssq]
      exact ⟨rfl, rfl, rfl, rfl⟩
    · rw [hkept]
      exact ⟨rfl, rfl, rfl, rfl, rfl, rfl, rfl, rfl, rfl⟩
  · intro ⟨state, entryRun, side, exitRun⟩ l r
    refine ⟨rfl, fun hstate => ?_, fun hstate => ?_, fun hstate => ?_⟩
    · cases hstate
      exact (take_inRange _ l r rfl).trans (by simp only [enter_eq]; rfl)
    · cases hstate
      exact (take_low _ l r rfl).trans (by simp only [enter_eq, leave_eq]; rfl)
    · cases hstate
      exact (take_high _ l r rfl).trans (by simp only [enter_eq, leave_eq]; rfl)

/-- Settles O32: the history, the table and the anchor, the slope, the lookup with its search, and the loop update. -/
theorem binAppended : Obligations.BinAppended := by
  refine ⟨?_, ?_, ?_, ?_, ?_, ?_⟩
  · intro history b
    obtain ⟨old, removed, hhistory, hremoved, hold, happended⟩ := appendBin_eq history b
    exact ⟨old, removed, _, hhistory, hremoved, hold, happended, rfl⟩
  · intro m alarm b
    have hindex := tableIndex_eq b.temp
    refine ⟨m.taught b, learn_eq m alarm b, fun hdisturbed => if_pos hdisturbed, fun hundisturbed hnone => ?_, fun hundisturbed a ha => ?_⟩
    · rw [← hindex]
      exact taught_anchor m b hundisturbed hnone
    · rw [← hindex]
      refine (taught_entry m b a hundisturbed ha).trans ?_
      rw [update_eq]
      rfl
  · intro m alarm fits origin newest y first last rise span
    refine ⟨fun hmany hlong hspan => ?_, fun hfew => (fitSlope_eq m alarm).trans (if_neg hfew)⟩
    refine (fitSlope_eq m alarm).trans ((if_pos ⟨hmany, hlong⟩).trans ?_)
    rw [groupSums_fits, groupSums_fits, fittedSlope_of_pos]
    · rfl
    · exact hspan
  · intro m alarm t p v w
    refine ⟨fun halarm => halarm ▸ rfl, fun halarm hend => ?_, fun halarm hlow hhigh => ?_⟩
    · rw [halarm]
      exact (lookup_end m t hend).trans (lookupAlone_eq m p _)
    · rw [halarm]
      exact (lookup_between m t hlow hhigh).trans (lookupPair_eq m p _ _)
  · intro m p i full far
    refine ⟨fun hnone => search_empty m p i fun k hk => ?_, fun k hk hnearest => ?_⟩
    · obtain ⟨hlast, hbelow, habove⟩ := (mem_searched i k).1 hk
      exact Nat.eq_zero_of_not_pos fun hpos => hnone k ⟨hlast, hbelow, habove, hpos⟩
    · obtain ⟨hlast, hbelow, habove, hfull⟩ := hk
      refine search_nearest m p i k ((mem_searched i k).2 ⟨hlast, hbelow, habove⟩) hfull.ne' fun j hj hfull' => ?_
      obtain ⟨hlast', hbelow', habove'⟩ := (mem_searched i j).1 hj
      exact hnearest j ⟨hlast', hbelow', habove', Nat.pos_of_ne_zero hfull'⟩
  · intro order s h
    obtain ⟨u, hexec, hsampled⟩ := update_samples s order h
    obtain ⟨u', hexec', hclosed⟩ := update_closes s order h
    cases hexec'.symm.trans hexec
    refine ⟨u, hexec, ?_⟩
    intro alarm closed left
    have halarm : s.toscAlarm = alarm := toscAlarm_eq s
    rw [halarm] at hsampled hclosed
    cases hengine : u.dlp.engine with
    | locked f =>
      have hlrn := hsampled f hengine
      simp only [biased_readLoop, followedChanged_locked] at hlrn
      dsimp only
      cases htosc : s.tosc <;>
        (rw [htosc] at hlrn
         exact hlrn)
    | freerun _ => exact hclosed (by rw [hengine]; rfl)
    | acquiring _ => exact hclosed (by rw [hengine]; rfl)
    | holdover _ => exact hclosed (by rw [hengine]; rfl)

end Sys2Proof.OscillatorLearning
end

section
/-! SUPPORT. What every command can do to the holdover episode, said once: it leaves it, or a loop update opens it, adds to its uncertainty
or closes it, and a hardware reset ends it (R116, R127, R128, R135). -/

namespace Sys2Proof.Machine

open Sys2Proof Sys2Proof.Safety

/-! ## What the bound of an episode rests on (R127, R128) -/

/-- What an episode's bound rests on, with the bound: whether the episode is open, U16, and the score in use. -/
abbrev Hop.account (h : Hop) : Bool × Nat × Nat × Nat := (h.isOpen, h.uncertainty, h.scoreInUse, h.bound)

theorem limitUncertainty_le (n : Nat) : limitUncertainty n ≤ 16000000000000 := Nat.min_le_right _ _

theorem le_limitUncertainty_add {u : Nat} (h : u ≤ 16000000000000) (n : Nat) : u ≤ limitUncertainty (u + n) :=
  Nat.le_min.2 ⟨Nat.le_add_right u n, h⟩

theorem boundOf_mono {u u' : Nat} (h : u ≤ u') (score : Nat) : boundOf u score ≤ boundOf u' score := by
  rw [ceil_bound, ceil_bound]
  exact Nat.div_le_div_right (Nat.add_le_add_right (Nat.mul_le_mul_right score h) _)

/-! ## Operations that leave the account -/

theorem modelClear_account (h : Hop) : h.modelClear.account = h.account := by
  unfold Hop.modelClear
  split <;> rfl

section

variable (s : State)

theorem reportHealth_hop (before : State) : (s.reportHealth before).hop = s.hop := (reportHealth_rest rfl).2.2.1

/-- Of the requests' owners MODEL CLEAR alone touches the Predictor, and it leaves the account (R133). -/
theorem answer_account (k : Port) (note : PortNote) (q : Request) : (s.answer k note q).hop.account = s.hop.account := by
  have hsave : ∀ kind a, (s.requestSave k kind a).hop = s.hop := fun kind a => by
    unfold State.requestSave
    split <;> rfl
  cases q with
  | portSet m p l => simp only [State.answer, answerPortSet]; split <;> rfl
  | offsetReport f => exact congrArg Hop.account (RquFrame.takeReport (.refl s)).hop
  | modelClear =>
    simp only [State.answer, answerModelClear]
    split
    · exact (congrArg Hop.account (reportHealth_hop s.clearModel s)).trans (modelClear_account s.hop)
    · rfl
  | channelSet f =>
    simp only [State.answer, answerChannelSet]
    split
    · rfl
    · rw [applyChannel_spec]
      rfl
  | siteSet i n v =>
    simp only [State.answer, answerSiteSet]
    split
    · rfl
    · exact congrArg Hop.account (applySetting_frame s k _ _).hop
  | siteFreeze => simp only [State.answer, answerSiteFreeze, State.freeze]; split <;> rfl
  | siteSave => exact congrArg Hop.account (hsave 0x13 .site)
  | modelSave => exact congrArg Hop.account (hsave 0x14 .model)
  | _ => rfl

theorem dispatch_account (k : Port) (note : PortNote) (q : Request) : (s.dispatch k note q).hop.account = s.hop.account := by
  unfold State.dispatch
  split
  · rfl
  · split
    · rfl
    · exact answer_account s k note q

theorem request_account (k : Port) (t : Nat) (q : Request) : (s.request k t q).hop.account = s.hop.account := by
  unfold State.request
  exact dispatch_account _ k _ q

theorem receive_account (k : Port) (x : Inbound) : (s.receive k x).hop.account = s.hop.account := by
  unfold State.receive State.dispatchFrame
  split
  · rfl
  · split
    · rfl
    · rfl
    · exact dispatch_account _ k _ _

theorem completeSequence_account (raw : RawCounts) : (s.completeSequence raw).hop.account = s.hop.account := by
  obtain ⟨l, tp, hkept⟩ := completeSequence_keeps s raw
  rw [hkept]

theorem endSave_account (v : Save) (ok : Bool) (done begun : Nat) : (s.endSave v ok done begun).hop.account = s.hop.account := by
  unfold State.endSave State.startPending State.tellSave
  split <;> split <;> rfl

/-- What is restored at the end of loading is the score, the list and the number to come, none of them of the account (R193). -/
theorem loadModel_account (content : Option (List Byte)) : (s.loadModel content).hop.account = s.hop.account := by
  have hend : ∀ u before : State, (u.endLoading before).hop = u.hop := fun u before => (endLoading_spec rfl).2.2.1
  unfold State.loadModel
  split
  · exact congrArg Hop.account (hend s s)
  · next c =>
    obtain ⟨tp, hinterrupt⟩ := interruptEpisode_keeps (s.restore (restoredOf c))
    rw [hend, hinterrupt]
    rfl

end

/-- Every command but a hardware reset and a loop update keeps the account. -/
theorem exec_account {c : Instr} {s u : State} (hc : movesEngine c = false) (h : exec c s = .next u) : u.hop.account = s.hop.account := by
  let account : State → Bool × Nat × Nat × Nat := fun v => v.hop.account
  cases c with
  | hardwareReset cause progress => cases hc
  | loopUpdate order => cases hc
  | resetRelease =>
    cases h
    split <;> rfl
  | siteLoad a => exact exec_keeps account h (fun _ => rfl) (by split <;> rfl)
  | modelLoad t a =>
    exact exec_keeps account h (fun _ => rfl) (by
      dsimp only
      split
      · exact loadModel_account (s.advanceTo t) _
      · rfl)
  | epoch =>
    refine exec_keeps account h (fun _ => rfl) ?_
    obtain ⟨tp, hepoch⟩ := raiseEpoch_eq s
    rw [hepoch]
    rfl
  | autosave => exact exec_keeps account h (fun _ => rfl) (by split <;> [split <;> rfl; rfl])
  | holdOffExpiry r =>
    refine exec_keeps account h (fun _ => rfl) ?_
    split
    · exact congrArg Hop.account (RquFrame.finish (.expire (.refl s))).hop
    · rfl
  | settlingExpiry => exact exec_keeps account h (fun _ => rfl) (by split <;> rfl)
  | pulseArrival p t => exact exec_keeps account h (fun _ => rfl) (congrArg Hop.account (RquFrame.pulse (.refl (s.advanceTo t))).hop)
  | staleTimerExpiry k =>
    refine exec_keeps account h (fun _ => rfl) ?_
    split
    · exact congrArg Hop.account (RquFrame.staleExpiry (.refl s)).hop
    · rfl
  | pulseDue k => exact exec_keeps account h (fun _ => rfl) (by split <;> rfl)
  | pulseEnd k => exact exec_keeps account h (fun _ => rfl) (by split <;> [rfl; split <;> rfl])
  | attentionPulseEnd k => exact exec_keeps account h (fun _ => rfl) (by split <;> [rfl; split <;> rfl])
  | vctlSample => exact exec_keeps account h (fun _ => rfl) (by split <;> rfl)
  | sequenceComplete t raw =>
    exact exec_keeps account h (fun _ => rfl) (by
      dsimp only
      split
      · exact completeSequence_account (s.advanceTo t) raw
      · rfl)
  | frameReceived k t bytes =>
    exact exec_keeps account h (fun _ => rfl) (by
      dsimp only
      split
      · exact receive_account ((s.advanceTo t).onPort k (fun p => p.finish bytes.length)) k _
      · rfl)
  | saveEnd t clean =>
    exact exec_keeps account h (fun _ => rfl) (by
      split
      · exact endSave_account (s.advanceTo t) _ _ _ _
      · rfl)
  | saveTimeout t progress =>
    exact exec_keeps account h (fun _ => rfl) (by
      split
      · exact endSave_account (s.advanceTo t) _ _ _ _
      · rfl)
  | powerFailWarning => exact exec_keeps account h (fun _ => rfl) (by split <;> [rfl; split <;> rfl; rfl])
  | slewTick _ | f1Edge _ | companionRecord _ _ | sensorSequenceStart | transactionStart _ | statusByteClockedOut _ =>
    exact exec_keeps account h (fun _ => rfl) rfl
  | _ => -- the requests
    exact exec_keeps account h (fun _ => rfl) (request_account s _ _ _)

/-! ## What a loop update's decision makes of the episode -/

/-- What can become of the episode: it is left, on whichever side of HOLDOVER the engine stays; it is opened as the engine enters HOLDOVER; `n`
is added to its uncertainty while the engine stays there; or none is left open, with the engine outside (R116, R120, R127, R128, R135). -/
inductive EpisodeChange (before : Engine) (h : Hop) (after : Engine) (h' : Hop) : Prop
  | kept (hengine : inHoldover after = inHoldover before) (haccount : h'.account = h.account)
  | opened (hbefore : inHoldover before = false) (hafter : inHoldover after = true) (hopen : h'.isOpen = true)
      (hlimit : h'.uncertainty ≤ 16000000000000) (hbound : h'.bound = boundOf h'.uncertainty h'.scoreInUse)
  | grown (n : Nat) (hbefore : inHoldover before = true) (hafter : inHoldover after = true) (hopen : h'.isOpen = h.isOpen)
      (hscore : h'.scoreInUse = h.scoreInUse) (hgrown : h'.uncertainty = limitUncertainty (h.uncertainty + n))
      (hbound : h'.bound = boundOf h'.uncertainty h'.scoreInUse)
  | closed (hafter : inHoldover after = false) (hclosed : h'.isOpen = false) (hlimit : h'.uncertainty ≤ h.uncertainty)

/-- Two engine states outside HOLDOVER leave the episode between them. -/
theorem EpisodeChange.outside {before after : Engine} (h : Hop) (hbefore : inHoldover before = false) (hafter : inHoldover after = false) :
    EpisodeChange before h after h := .kept (hafter.trans hbefore.symm) rfl

/-- The count of epochs that the end of an update restarts is not of the episode. -/
theorem EpisodeChange.restartEpochs {before after : Engine} {h h' : Hop} (g : EpisodeChange before h after h') (n : Nat) :
    EpisodeChange before h after { h' with epochs := n } := by
  cases g with
  | kept hengine haccount => exact .kept hengine haccount
  | opened hbefore hafter hopen hlimit hbound => exact .opened hbefore hafter hopen hlimit hbound
  | grown n hbefore hafter hopen hscore hgrown hbound => exact .grown n hbefore hafter hopen hscore hgrown hbound
  | closed hafter hclosed hlimit => exact .closed hafter hclosed hlimit

/-- An estimate followed leaves the Predictor, and the engine outside HOLDOVER (R83, R85 to R87). -/
theorem follow_outside (v : State) (f r : PhaseRef) (x : PhaseEstimate) :
    (v.follow f r x).st.hop = v.hop ∧ inHoldover (v.follow f r x).st.dlp.engine = false := by
  have hswitch : ∀ d, inHoldover (v.switchTo d r x).engine = false := fun d => by
    unfold State.switchTo
    extract_lets
    split <;> rfl
  have htrack : ∀ d, inHoldover (v.track d r x).engine = false := fun d => by
    unfold State.track
    extract_lets
    split <;> rfl
  have hacquire : ∀ d, inHoldover (v.acquire d r x).engine = false := fun d => by
    unfold State.acquire
    extract_lets
    split <;> rfl
  unfold State.follow
  dsimp only
  split
  · exact ⟨rfl, rfl⟩
  · split
    · exact ⟨rfl, hswitch _⟩
    · split
      · exact ⟨rfl, htrack _⟩
      · exact ⟨rfl, hacquire _⟩

/-- The entry to HOLDOVER opens an episode (R118, R120, R128). -/
theorem loseReference_episode (v : State) (f : PhaseRef) (x : LoopInput) (h : inHoldover v.dlp.engine = false) :
    EpisodeChange v.dlp.engine v.hop (v.loseReference f x).st.dlp.engine (v.loseReference f x).st.hop := by
  obtain ⟨tp, hst⟩ := loseReference_st v f x
  obtain ⟨_, _, _, _, _, _, _, hsteered⟩ := enterSteering_hop (v.episodeOpened f x) (v.entryOf f x) x.steering
  rw [hst, State.entrySteered, hsteered]
  exact .opened h rfl rfl (limitUncertainty_le _) rfl

/-- A later update in HOLDOVER adds the increment of its terms (R127, R128). -/
theorem holdoverUpdate_grows (v : State) (old new : HoldMode) (f : Int) (d : Option Int) :
    let h := (v.holdoverUpdate old new f d).1.hop
    h.isOpen = v.hop.isOpen ∧ h.scoreInUse = v.hop.scoreInUse ∧ h.uncertainty = limitUncertainty (v.hop.uncertainty + h.terms.u16) ∧
      h.bound = boundOf h.uncertainty h.scoreInUse := by
  cases new with
  | predicted => cases old <;> exact ⟨rfl, rfl, rfl, rfl⟩
  | assisted => exact ⟨rfl, rfl, rfl, rfl⟩

theorem runHoldover_episode (v : State) (m : HoldMode) (x : LoopInput) (h : inHoldover v.dlp.engine = true) :
    EpisodeChange v.dlp.engine v.hop (v.runHoldover m x).st.dlp.engine (v.runHoldover m x).st.hop := by
  obtain ⟨hopen, hscore, hgrown, hbound⟩ := holdoverUpdate_grows v m (holdModeOf x.f1) v.dlp.fOut x.steering
  rw [runHoldover_st]
  exact .grown _ h rfl hopen hscore hgrown hbound

/-- The exit from HOLDOVER closes the episode (R91, R135). -/
theorem regain_episode (v : State) (r : PhaseRef) (x : PhaseEstimate) :
    EpisodeChange v.dlp.engine v.hop (v.regain r x).st.dlp.engine (v.regain r x).st.hop := by
  obtain ⟨hclosed, hacquiring⟩ := regain_closes v r x
  rw [hclosed, hacquiring]
  exact .closed rfl rfl (Nat.le_refl _)

theorem decideFollowing_episode (v : State) (f : PhaseRef) (x : LoopInput) (h : inHoldover v.dlp.engine = false) :
    EpisodeChange v.dlp.engine v.hop (v.decideFollowing f x).st.dlp.engine (v.decideFollowing f x).st.hop := by
  unfold State.decideFollowing
  split
  · exact loseReference_episode v f x h
  · next r e _ _ =>
    obtain ⟨hkept, houtside⟩ := follow_outside v f r e
    rw [hkept]
    exact .outside v.hop h houtside
  · exact .outside v.hop h h

/-- Every decision of a loop update changes the episode in one of the ways of `EpisodeChange`. -/
theorem decideUpdate_episode (v : State) (x : LoopInput) :
    EpisodeChange v.dlp.engine v.hop (v.decideUpdate x).st.dlp.engine (v.decideUpdate x).st.hop := by
  have houtside : ∀ e, v.dlp.engine = e → inHoldover e = false → inHoldover v.dlp.engine = false := fun e he h => he ▸ h
  unfold State.decideUpdate
  split
  · next hengine =>
    have hfree := houtside _ hengine rfl
    split
    · exact .outside v.hop hfree rfl
    · refine .outside v.hop hfree ?_
      show inHoldover (v.runFree x).engine = false
      rw [runFree_engine]
      rfl
  · next hengine => exact decideFollowing_episode v _ x (houtside _ hengine rfl)
  · next hengine => exact decideFollowing_episode v _ x (houtside _ hengine rfl)
  · next hengine =>
    split
    · exact regain_episode v _ _
    · exact runHoldover_episode v _ x (by rw [hengine]; rfl)

/-! ## Every command -/

/-- What a state's episode becomes in another state. -/
abbrev EpisodeChanges (s u : State) : Prop := EpisodeChange s.dlp.engine s.hop u.dlp.engine u.hop

theorem loopUpdate_episode (s : State) (order : List UpdatePart) (hrunning : s.running = true) :
    ∃ u, exec (.loopUpdate order) s = .next u ∧ EpisodeChanges s u := by
  obtain ⟨u, v, hexec, hframe, rfl, hdlp, hhop, -⟩ := update_decided s order hrunning
  have hdecided := decideUpdate_episode (atLoop order s).spendEstimates ((atLoop order s).readLoop (gateOffset s))
  rw [hframe.dlp, hframe.hop] at hdecided
  refine ⟨u, hexec, ?_⟩
  rw [EpisodeChanges, hdlp, hhop]
  exact hdecided.restartEpochs 0

/-- Every command changes the episode in one of the ways of `EpisodeChange`; a hardware reset leaves none open (R116, R170). -/
theorem exec_episode {c : Instr} {s u : State} (hexec : exec c s = .next u) : EpisodeChanges s u := by
  cases hc : movesEngine c with
  | false => exact .kept (congrArg inHoldover (exec_engine hc hexec)) (exec_account hc hexec)
  | true =>
    cases c with
    | hardwareReset cause progress =>
      cases hexec
      exact .closed rfl rfl (Nat.zero_le _)
    | loopUpdate order =>
      cases hrunning : s.running with
      | true =>
        obtain ⟨u', hexec', hchange⟩ := loopUpdate_episode s order hrunning
        cases hexec'.symm.trans hexec
        exact hchange
      | false =>
        cases (whileRunning_held s (fun s => s.update order) hrunning).symm.trans hexec
        exact .kept rfl rfl
    | _ => cases hc

/-- On an empty queue the part idles, and else it takes a command. -/
theorem step_episode {s u : State} (hstep : step s = .next u) : EpisodeChanges s u := by
  unfold step at hstep
  split at hstep
  · cases hstep
    exact .kept rfl rfl
  · next rest _ => exact exec_episode (s := { s with pending := rest }) hstep

/-! ## What no change of the episode breaks -/

theorem EpisodeChange.sound {s u : State} (g : EpisodeChanges s u) (h : EpisodeSound s) : EpisodeSound u := by
  obtain ⟨hopen, hlimit, hbound⟩ := h
  cases g with
  | kept hengine haccount =>
    simp only [Hop.account, Prod.mk.injEq] at haccount
    obtain ⟨hopen', huncertainty', hscore', hbound'⟩ := haccount
    rw [EpisodeSound, hengine, hopen', huncertainty', hscore', hbound']
    exact ⟨hopen, hlimit, hbound⟩
  | opened _ hafter hopen' hlimit' hbound' => exact ⟨hopen'.trans hafter.symm, hlimit', fun _ => hbound'⟩
  | grown n hbefore hafter hopen' _ hgrown hbound' =>
    exact ⟨hopen'.trans (hopen.trans (hbefore.trans hafter.symm)), hgrown ▸ limitUncertainty_le _, fun _ => hbound'⟩
  | closed hafter hclosed hlimit' =>
    exact ⟨hclosed.trans hafter.symm, hlimit'.trans hlimit, fun hopen' => nomatch hclosed.symm.trans hopen'⟩

/-- Where the episode open before is still open after, its uncertainty grew or stayed, and its score in use stayed (R118, R127). -/
theorem EpisodeChange.grows {s u : State} (g : EpisodeChanges s u) (h : EpisodeSound s) (hs : s.hop.isOpen = true)
    (hu : u.hop.isOpen = true) : s.hop.uncertainty ≤ u.hop.uncertainty ∧ u.hop.scoreInUse = s.hop.scoreInUse := by
  obtain ⟨hopen, hlimit, -⟩ := h
  cases g with
  | kept _ haccount =>
    simp only [Hop.account, Prod.mk.injEq] at haccount
    obtain ⟨-, huncertainty, hscore, -⟩ := haccount
    exact ⟨huncertainty.ge, hscore⟩
  | opened hbefore => exact nomatch hs.symm.trans (hopen.trans hbefore)
  | grown n _ _ _ hscore hgrown => exact ⟨hgrown ▸ le_limitUncertainty_add hlimit n, hscore⟩
  | closed _ hclosed => exact nomatch hclosed.symm.trans hu

end Sys2Proof.Machine
end

section
/-! SUPPORT. The score after an episode, by where e1 lies against b (R136). -/

namespace Sys2Proof.Machine

open Sys2Proof Sys2Proof.Safety

/-- The b of an episode, in ps: its uncertainty scaled by the score in use (R136). -/
def Hop.tolerance (h : Hop) : ℚ := (h.uncertainty : ℚ) * h.scoreInUse / 256

theorem tolerance_lt_iff (h : Hop) (e : Int) : h.tolerance < |(e : ℚ)| ↔ h.uncertainty * h.scoreInUse < 256 * e.natAbs := by
  rw [Hop.tolerance, div_lt_iff₀ (by norm_num), mul_comm _ (256 : ℚ), ← Int.cast_abs, ← Nat.cast_natAbs]
  exact_mod_cast Iff.rfl

theorem lt_tolerance_iff (h : Hop) (e : Int) : 4 * |(e : ℚ)| < h.tolerance ↔ 4 * (256 * e.natAbs) < h.uncertainty * h.scoreInUse := by
  rw [Hop.tolerance, lt_div_iff₀ (by norm_num), mul_assoc, mul_comm _ (256 : ℚ), ← Int.cast_abs, ← Nat.cast_natAbs]
  exact_mod_cast Iff.rfl

/-- An episode shorter than 600 s, or whose model was cleared, leaves the score (R136). -/
theorem scoreAfter_unjudged (h : Hop) (e : Int) (hnot : ¬(600 ≤ h.time ∧ h.modelCleared = false)) : h.scoreAfter e = h.score :=
  if_pos (by simpa [or_iff_not_imp_left] using hnot)

/-- The score of an episode of 600 s or more whose model was not cleared, by e1 against b (R136). -/
theorem scoreAfter_judged (h : Hop) (e : Int) (htime : 600 ≤ h.time) (hmodel : h.modelCleared = false) : h.scoreAfter e =
    if h.tolerance < |(e : ℚ)| then min 64 (h.scoreInUse + 8)
    else if 4 * |(e : ℚ)| < h.tolerance then max 16 (h.scoreInUse - 1)
    else h.scoreInUse := by
  unfold Hop.scoreAfter
  rw [if_neg (by simp [hmodel, htime])]
  simp only [tolerance_lt_iff, lt_tolerance_iff]

end Sys2Proof.Machine
end

section
/-! The statements about holdover, settled. -/

namespace Sys2Proof.HoldoverPrediction

open Sys2Proof Sys2Proof.Machine Sys2Proof.Safety

/-- Settles O30: a command leaves, opens, adds to or closes the episode, and none of these breaks the invariant. -/
theorem episodeStaysSound : Obligations.EpisodeStaysSound := fun _ _ h hstep => (step_episode hstep).sound h

/-- Settles O31: of the changes of an episode only the added increment leaves it open, and the bound is monotone in the uncertainty. -/
theorem boundNeverDecreases : Obligations.BoundNeverDecreases := by
  intro s u h hstep hs hu
  obtain ⟨hgrown, hscore⟩ := (step_episode hstep).grows h hs hu
  obtain ⟨-, -, hbound'⟩ := episodeStaysSound s u h hstep
  obtain ⟨-, -, hbound⟩ := h
  refine ⟨hgrown, hscore, ?_⟩
  rw [hbound hs, hbound' hu, hscore]
  exact boundOf_mono hgrown _

/-- Settles O29: the exit gives the score and the record the score after the episode, which is judged by e1 against b. -/
theorem scoreAfterEpisode : Obligations.ScoreAfterEpisode := by
  intro order s m r x e es hrunning hengine husable hepisodes
  obtain ⟨u, hexec, -, -, -, hscore, hlist, -⟩ := DisciplineLoop.holdoverLeft order s m r x e es hrunning hengine husable hepisodes
  refine ⟨u, hexec, by rw [hlist, hscore]; rfl, ?_⟩
  intro b
  rw [hscore]
  split
  · next hjudged =>
    obtain ⟨htime, hmodel⟩ := hjudged
    rw [scoreAfter_judged s.hop x.e htime hmodel]
    exact ⟨fun hbeyond => if_pos hbeyond, fun hwithin hsmall => (if_neg hwithin).trans (if_pos hsmall),
      fun hwithin hlarge => (if_neg hwithin).trans (if_neg hlarge)⟩
  · next hnot => exact scoreAfter_unjudged s.hop x.e hnot

end Sys2Proof.HoldoverPrediction
end

section
/-! SUPPORT. What every command can do to the Steering DAC's record, said once: it leaves it, or takes an f_out, moves the output code by a slew
tick, latches the output code, judges a readback, or resets it; and what these do to the codes (R141, R142, R144 to R147). -/

namespace Sys2Proof.Machine

open Sys2Proof Sys2Proof.Safety

/-! ## The output code at a slew tick (R144) -/

theorem slewed_up {output target : Nat} (h : output ≤ target) (n : Nat) : slewed output target n = min target (output + n) := by
  unfold slewed
  split
  · rfl
  · split <;> omega

theorem slewed_down {output target : Nat} (h : target ≤ output) (n : Nat) : slewed output target n = max target (output - n) := by
  unfold slewed
  split
  · omega
  · split
    · rfl
    · omega

/-- A bounded step ends no higher than the higher of the two codes. -/
theorem slewed_le {output target bound : Nat} (houtput : output ≤ bound) (htarget : target ≤ bound) (n : Nat) :
    slewed output target n ≤ bound := by
  rcases Nat.le_total output target with h | h
  · rw [slewed_up h]
    omega
  · rw [slewed_down h]
    omega

/-- The output code after a slew tick, by the steering state. -/
def Sdc.outputAfter (d : Sdc) (n : Nat) : Nat :=
  match d.steering with
  | .held => d.output
  | .normal => slewed d.output d.target n

theorem tick_eq (d : Sdc) (n : Nat) : d.tick n = { d with output := d.outputAfter n, moved := decide (d.outputAfter n ≠ d.output) } := by
  unfold Sdc.tick Sdc.outputAfter
  cases d.steering with
  | held => simp only [ne_eq, not_true_eq_false, decide_false]
  | normal => simp only [bne, decide_not, beq_eq_decide]

/-- Of the 16 phases of an interval at which a tick falls, each lies before its end. -/
theorem slewPhase_lt (k : Fin 16) {interval : Nat} (h : 0 < interval) : k.val * (interval / 16) < interval := by
  have hlast : k.val * (interval / 16) ≤ 15 * (interval / 16) := Nat.mul_le_mul_right _ (by omega)
  omega

/-! ## Operations that leave the DAC's record -/

section

variable (s : State)

@[simp] theorem State.reportHealth_sdc (before : State) : (s.reportHealth before).sdc = s.sdc := by
  obtain ⟨tp, hreported⟩ := reportHealth_keeps s before
  rw [hreported, ← s.recompute_sdc]

@[simp] theorem State.raiseEpoch_sdc : s.raiseEpoch.sdc = s.sdc := by
  obtain ⟨tp, hepoch⟩ := raiseEpoch_eq s
  rw [hepoch, ← s.countEpoch_sdc]

@[simp] theorem State.requestSave_sdc (k : Port) (kind : Nat) (a : Area) : (s.requestSave k kind a).sdc = s.sdc := by
  unfold State.requestSave
  split <;> rfl

/-- No request's owner touches the DAC. -/
@[simp] theorem State.answer_sdc (k : Port) (note : PortNote) (q : Request) : (s.answer k note q).sdc = s.sdc := by
  cases q with
  | portSet m p l => simp only [State.answer, answerPortSet]; split <;> rfl
  | offsetReport f => exact (RquFrame.takeReport (.refl s)).sdc
  | modelClear => simp only [State.answer, answerModelClear]; split <;> simp
  | channelSet f => simp only [State.answer, answerChannelSet]; split <;> simp [applyChannel_spec]
  | siteSet i n v =>
    simp only [State.answer, answerSiteSet]
    split
    · rfl
    · exact (applySetting_frame s k _ _).sdc
  | siteFreeze => simp only [State.answer, answerSiteFreeze, State.freeze]; split <;> rfl
  | siteSave => exact s.requestSave_sdc k 0x13 .site
  | modelSave => exact s.requestSave_sdc k 0x14 .model
  | _ => rfl

@[simp] theorem State.dispatch_sdc (k : Port) (note : PortNote) (q : Request) : (s.dispatch k note q).sdc = s.sdc := by
  unfold State.dispatch
  split
  · rfl
  · split <;> simp

@[simp] theorem State.receive_sdc (k : Port) (x : Inbound) : (s.receive k x).sdc = s.sdc := by
  unfold State.receive State.dispatchFrame
  split
  · rfl
  · split <;> simp

@[simp] theorem State.request_sdc (k : Port) (t : Nat) (q : Request) : (s.request k t q).sdc = s.sdc := by
  simp [State.request]

@[simp] theorem State.endSave_sdc (v : Save) (ok : Bool) (done begun : Nat) : (s.endSave v ok done begun).sdc = s.sdc := by
  unfold State.endSave State.startPending State.tellSave
  split <;> split <;> rfl

@[simp] theorem State.endLoading_sdc (before : State) : (s.endLoading before).sdc = s.sdc := by
  obtain ⟨-, -, -, -, -, hsdc, -⟩ := endLoading_spec (s := s) (before := before) rfl
  exact hsdc

@[simp] theorem State.loadModel_sdc (content : Option (List Byte)) : (s.loadModel content).sdc = s.sdc := by
  unfold State.loadModel
  split
  · exact s.endLoading_sdc s
  · next c =>
    obtain ⟨tp, hinterrupt⟩ := interruptEpisode_keeps (s.restore (restoredOf c))
    rw [State.endLoading_sdc, hinterrupt, ← s.restore_sdc (restoredOf c)]

end

/-! ## Changes of the DAC's record -/

/-- What a command can make of the DAC's record. -/
inductive SdcChange (d : Sdc) : Sdc → Prop
  | kept : SdcChange d d
  | taken (r : SiteRecord) (f : Int) : SdcChange d (d.take r f)
  | ticked (n : Nat) : SdcChange d (d.tick n)
  | latched : SdcChange d { d with latchedCode := d.output, latchedMoved := d.moved }
  | judged (r : SiteRecord) (vctl : Option Int) : SdcChange d (d.readbackStep r vctl)
  | reset : SdcChange d Sdc.reset

theorem SdcChange.kept_of_eq {d e : Sdc} (h : e = d) : SdcChange d e := h ▸ .kept

/-- The end of a sensor sequence judges the readback (R145). -/
theorem completeSequence_sdcChange (s : State) (raw : RawCounts) : SdcChange s.sdc (s.completeSequence raw).sdc := by
  obtain ⟨l, tp, hkept⟩ := completeSequence_keeps s raw
  rw [hkept]
  exact .judged _ _

/-- A loop update hands the DAC one f_out (R92, R142). -/
theorem loopUpdate_sdcChange (s : State) (order : List UpdatePart) (hrunning : s.running = true) :
    ∃ u, exec (.loopUpdate order) s = .next u ∧ SdcChange s.sdc u.sdc := by
  obtain ⟨u, v, hexec, hframe, rfl, -, -, hsdc, -⟩ := update_decided s order hrunning
  refine ⟨u, hexec, ?_⟩
  rw [hsdc, decideUpdate_sdc, hframe.sdc]
  exact .taken _ _

/-- Every command changes the DAC's record in one of the ways of `SdcChange`. -/
theorem exec_sdcChange {c : Instr} {s u : State} (hexec : exec c s = .next u) : SdcChange s.sdc u.sdc := by
  have hchange : ∀ {f : State → State}, (∀ v, exec c v = whileRunning v f) → SdcChange s.sdc (f s).sdc → SdcChange s.sdc u.sdc :=
    fun heffect hf => exec_preserves (fun v => SdcChange s.sdc v.sdc) hexec heffect .kept hf
  have hkeep : ∀ {f : State → State}, (∀ v, exec c v = whileRunning v f) → (f s).sdc = s.sdc → SdcChange s.sdc u.sdc :=
    fun heffect hf => hchange heffect (.kept_of_eq hf)
  cases c with
  | hardwareReset cause progress =>
    cases hexec
    exact .reset
  | resetRelease =>
    cases hexec
    split <;> exact .kept
  | loopUpdate order =>
    cases hrunning : s.running with
    | true =>
      obtain ⟨u', hexec', hchanged⟩ := loopUpdate_sdcChange s order hrunning
      cases hexec'.symm.trans hexec
      exact hchanged
    | false =>
      cases (whileRunning_held s (fun s => s.update order) hrunning).symm.trans hexec
      exact .kept
  | slewTick k => exact hchange (fun _ => rfl) (.ticked _)
  | vctlSample =>
    refine hchange (fun _ => rfl) ?_
    split
    · exact .latched
    · exact .kept
  | sequenceComplete t raw =>
    refine hchange (fun _ => rfl) ?_
    dsimp only
    split
    · exact completeSequence_sdcChange (s.advanceTo t) raw
    · exact .kept
  | siteLoad a => exact hkeep (fun _ => rfl) (by split <;> rfl)
  | modelLoad t a => exact hkeep (fun _ => rfl) (by dsimp only; split <;> simp)
  | epoch => exact hkeep (fun _ => rfl) s.raiseEpoch_sdc
  | autosave => exact hkeep (fun _ => rfl) (by split <;> [split <;> rfl; rfl])
  | holdOffExpiry r =>
    refine hkeep (fun _ => rfl) ?_
    split
    · exact (RquFrame.finish (.expire (.refl s))).sdc
    · rfl
  | settlingExpiry => exact hkeep (fun _ => rfl) (by split <;> rfl)
  | pulseArrival p t => exact hkeep (fun _ => rfl) (RquFrame.pulse (.refl (s.advanceTo t))).sdc
  | staleTimerExpiry k =>
    refine hkeep (fun _ => rfl) ?_
    split
    · exact (RquFrame.staleExpiry (.refl s)).sdc
    · rfl
  | pulseDue k => exact hkeep (fun _ => rfl) (by split <;> rfl)
  | pulseEnd k => exact hkeep (fun _ => rfl) (by split <;> [rfl; split <;> rfl])
  | attentionPulseEnd k => exact hkeep (fun _ => rfl) (by split <;> [rfl; split <;> rfl])
  | frameReceived k t bytes => exact hkeep (fun _ => rfl) (by dsimp only; split <;> simp)
  | saveEnd t clean => exact hkeep (fun _ => rfl) (by split <;> simp)
  | saveTimeout t progress => exact hkeep (fun _ => rfl) (by dsimp only; split <;> simp)
  | powerFailWarning => exact hkeep (fun _ => rfl) (by split <;> [rfl; split <;> rfl; rfl])
  | f1Edge _ | companionRecord _ _ | sensorSequenceStart | transactionStart _ | statusByteClockedOut _ => exact hkeep (fun _ => rfl) rfl
  | _ => exact hkeep (fun _ => rfl) (s.request_sdc _ _ _) -- the requests

/-- On an empty queue the part idles, and else it takes a command. -/
theorem step_sdcChange {s u : State} (hstep : step s = .next u) : SdcChange s.sdc u.sdc := by
  unfold step at hstep
  split at hstep
  · cases hstep
    exact .kept
  · next rest _ => exact exec_sdcChange (s := { s with pending := rest }) hstep

/-! ## What a change does to the codes -/

/-- The f_out taken leaves the output code, and the target code is clamped to the DAC's range (R142). -/
theorem take_codes (d : Sdc) (r : SiteRecord) (f : Int) : (d.take r f).target ≤ 1048575 ∧ (d.take r f).output = d.output := by
  have hmax : Config.maxCode = 1048575 := rfl
  unfold Sdc.take
  extract_lets t
  rw [hmax]
  split
  · exact ⟨Nat.zero_le _, rfl⟩
  · split
    · exact ⟨le_rfl, rfl⟩
    · exact ⟨by dsimp only; omega, rfl⟩

/-- A readback moves the runs and the steering state, and no code (R145 to R147). -/
theorem readbackStep_codes (d : Sdc) (r : SiteRecord) (vctl : Option Int) :
    (d.readbackStep r vctl).target = d.target ∧ (d.readbackStep r vctl).output = d.output := by
  rw [readbackStep_eq]
  split
  · exact ⟨rfl, rfl⟩
  · exact ⟨rfl, rfl⟩
  · split <;> exact ⟨rfl, rfl⟩
  · split <;> exact ⟨rfl, rfl⟩
  · exact ⟨rfl, rfl⟩

theorem outputAfter_le {d : Sdc} (h : CodesInRange d) (n : Nat) : d.outputAfter n ≤ 1048575 := by
  obtain ⟨htarget, houtput⟩ := h
  unfold Sdc.outputAfter
  split
  · exact houtput
  · exact slewed_le houtput htarget n

/-- Every change of the DAC's record keeps both codes in range. -/
theorem SdcChange.codesInRange {d e : Sdc} (g : SdcChange d e) (h : CodesInRange d) : CodesInRange e := by
  obtain ⟨htarget, houtput⟩ := h
  cases g with
  | kept => exact ⟨htarget, houtput⟩
  | taken r f =>
    obtain ⟨hclamped, hkept⟩ := take_codes d r f
    exact ⟨hclamped, hkept.trans_le houtput⟩
  | ticked n =>
    rw [tick_eq]
    exact ⟨htarget, outputAfter_le ⟨htarget, houtput⟩ n⟩
  | latched => exact ⟨htarget, houtput⟩
  | judged r vctl =>
    obtain ⟨htarget', houtput'⟩ := readbackStep_codes d r vctl
    exact ⟨htarget'.trans_le htarget, houtput'.trans_le houtput⟩
  | reset => decide

end Sys2Proof.Machine
end

section
/-! The statements about oscillator steering and the sensor sequencer, settled. -/

namespace Sys2Proof.OscillatorSteering

open Sys2Proof Sys2Proof.Machine Sys2Proof.Safety

/-- Settles O35: every command changes the DAC's record in one of six ways, and each keeps both codes in range. -/
theorem codesStayInRange : Obligations.CodesStayInRange := fun _ _ h hstep => (step_sdcChange hstep).codesInRange h

/-- Settles O34: the tick is at its phase, and the output code follows by the steering state and the side on which the target lies. -/
theorem slewTickMoves : Obligations.SlewTickMoves := by
  intro k s hrunning hphase hinterval
  refine ⟨s.sdc.outputAfter (s.site.nat .slewStep), ?_, ?_⟩
  · rw [exec_slewTick s hrunning, advanceTo_timely s _ hphase (slewPhase_lt k hinterval)]
    exact congrArg (fun d => Host.Outcome.next { atPhase s (k.val * (s.tsu.interval / 16)) with sdc := d }) (tick_eq _ _)
  · unfold Sdc.outputAfter
    cases s.sdc.steering with
    | held => rfl
    | normal => exact ⟨fun hbelow => slewed_up hbelow _, fun habove => slewed_down habove _⟩

/-- Settles O36: each command's effect on a part that runs; the VCTL sample's is the one of a sequence in progress. -/
theorem sequenceStartAndLatch : Obligations.SequenceStartAndLatch := by
  intro s hrunning
  refine ⟨exec_sensorSequenceStart s hrunning, fun hprogress => ?_⟩
  rw [exec_vctlSample s hrunning, if_pos hprogress]

end Sys2Proof.OscillatorSteering
end

section
/-! SUPPORT. What the output channels' events do: a due instant, the end of a pulse, the time marks of an epoch, and the budget checks at the
end of a loop update. -/

namespace Sys2Proof.Machine

open Sys2Proof Sys2Proof.Safety

/-! ## Time marks (R168, R176) -/

/-- The port of a channel after the channel's part of the time marks (R168). -/
def markedPort (s : State) (k : Port) : TenantPort :=
  if (s.oc.get k).settings.timeMarks then (s.tp.get k).place s.tsu.phase .timeMark (s.timeMark k) else s.tp.get k

/-- One channel's part of the time marks replaces its own port. -/
theorem markOne_eq (s : State) (k : Port) :
    (if (s.oc.get k).settings.timeMarks then s.notice k .timeMark (s.timeMark k) else s) =
      { s with tp := s.tp.set k (markedPort s k) } := by
  unfold markedPort
  split
  · rfl
  · rw [perPort_set_get]

/-- The time marks leave in each port what its own channel places there. -/
theorem timeMarks_port (s : State) (k : Port) : s.timeMarks.tp.get k = markedPort s k := by
  simp only [State.timeMarks, ports_foldl, markOne_eq]
  cases k <;> rfl

/-- A TIME MARK announces the seconds count plus 1 in its first six bytes (R168). -/
theorem timeMark_take (s : State) (k : Port) : (s.timeMark k).take 6 = secField (s.tsu.seconds + 1) := by
  simp [State.timeMark]

/-- A notice whose kind is queued already, or that finds room, stands in the queue once it is placed (R176). -/
theorem place_mem (phase : Nat) (p : TenantPort) (n : NoticeKind) (x : List Byte) (h : 0 < noticeCount p.queue n ∨ p.places < 8) :
    ∃ f ∈ (p.place phase n x).queue, f.notice = some n ∧ f.payload = x := by
  rcases place_cases phase p n x with ⟨hqueued, hplace⟩ | ⟨habsent, hplace⟩
  · obtain ⟨f, hf, hkind⟩ := List.any_eq_true.1 hqueued
    rw [hplace]
    exact ⟨{ f with payload := x }, List.mem_map.2 ⟨f, hf, if_pos hkind⟩, by simpa [Frame.isNotice] using hkind, rfl⟩
  · have hcount : noticeCount p.queue n = 0 := by
      simpa [noticeCount, List.filter_eq_nil_iff] using habsent
    have hroom : p.places < 8 := h.resolve_left (by omega)
    rw [hplace, join_of_room phase p _ hroom]
    exact ⟨_, List.mem_append_right p.queue (List.mem_singleton.2 rfl), rfl, rfl⟩

/-- At an epoch a port's queue takes the TIME MARK of its channel, which announces the count that the epoch after it opens (R168). -/
theorem raiseEpoch_marked (s : State) (k : Port) (hmarks : (s.oc.get k).settings.timeMarks = true) :
    ∃ x : List Byte, x.take 6 = secField (s.tsu.seconds + 2) ∧
      s.raiseEpoch.tp.get k = ((s.tp.get k).epoch s.tsu.interval).place 0 .timeMark x := by
  let w : State := { s.countEpoch s.tsu.interval with tsu := s.tsu.epoch }
  let v : State := w.minuteMark s.tsu.prevLabel
  have hv : v.oc = w.oc ∧ v.tp = w.tp ∧ v.tsu = s.tsu.epoch := by
    dsimp only [v]
    rw [minuteMark_keeps]
    exact ⟨rfl, rfl, rfl⟩
  obtain ⟨hoc, htp, htsu⟩ := hv
  have hchannel : v.oc.get k = (s.oc.get k).epoch s.tsu.interval := hoc ▸ perPort_get_map _ _ k
  have hport : v.tp.get k = (s.tp.get k).epoch s.tsu.interval := htp ▸ perPort_get_map _ _ k
  have hsettings : (v.oc.get k).settings = (s.oc.get k).settings := by rw [hchannel]; rfl
  refine ⟨v.timeMark k, ?_, ?_⟩
  · rw [timeMark_take, htsu]
    exact congrArg secField (BitVec.add_assoc s.tsu.seconds 1 1)
  · rw [← hport, show (0 : Nat) = v.tsu.phase from htsu ▸ rfl]
    exact (timeMarks_port v k).trans (if_pos (by rw [hsettings, hmarks]))

/-! ## Due instants (R162) -/

/-- For D ≥ 0 the due instant is D after the epoch that opened the interval. -/
theorem duePhase_opening {c : Channel} {due : Nat} (length : Nat) (hdelay : 0 ≤ c.settings.delay) (hserved : c.openingServed = false)
    (hdue : (due : Int) = 1000 * c.settings.delay) : c.duePhase length = some due := by
  have htoNat : c.settings.delayPs.toNat = due := by rw [ChannelSettings.delayPs]; omega
  rw [Channel.duePhase, if_pos hdelay, hserved, htoNat]
  rfl

/-- For D < 0 the due instant is −D before the epoch that closes the interval. -/
theorem duePhase_closing {c : Channel} {due length : Nat} (hdelay : c.settings.delay < 0) (hserved : c.closingServed = false)
    (hdue : (due : Int) = length + 1000 * c.settings.delay) : c.duePhase length = some due := by
  have htoNat : ((length : Int) + c.settings.delayPs).toNat = due := by rw [ChannelSettings.delayPs]; omega
  rw [Channel.duePhase, if_neg (Int.not_le.2 hdelay), hserved, htoNat]
  rfl

/-- A channel at its due instant, before the served mark, with the label of the epoch whose pulse is due: an ACTIVE channel emits it, a QUIET
one passes it over (R162, R163). -/
def Channel.emitted (c : Channel) (due : Nat) (label : Sec) : Channel :=
  if c.state = .active then c.beginPulse due label else c

theorem emitted_settings (c : Channel) (due : Nat) (label : Sec) : (c.emitted due label).settings = c.settings := by
  unfold Channel.emitted
  split <;> rfl

/-- The mark served for D ≥ 0 is that of the epoch that opened the interval. -/
theorem serve_opening {c : Channel} (hdelay : 0 ≤ c.settings.delay) : c.serve = { c with openingServed := true } := if_pos hdelay

/-- The mark served for D < 0 is that of the epoch that closes the interval. -/
theorem serve_closing {c : Channel} (hdelay : c.settings.delay < 0) : c.serve = { c with closingServed := true } :=
  if_neg (Int.not_le.2 hdelay)

/-- A due instant served: the pulse with its epoch's label, and the served mark. -/
theorem servePulse_eq (s : State) (k : Port) (due : Nat) :
    s.servePulse k due = { s with oc := s.oc.set k ((s.oc.get k).emitted due ((s.oc.get k).dueLabel s.tsu.seconds)).serve } := by
  unfold State.servePulse State.onChannel Channel.emitted
  cases hstate : (s.oc.get k).state with
  | active => simp only [hstate, if_true]
  | quiet q => simp only [hstate, reduceCtorEq, if_false]

/-- PULSE_DUE at its instant. -/
theorem exec_pulseDue_timely {k : Port} {due : Nat} {s : State} (h : Timely s due)
    (hphase : (s.oc.get k).duePhase s.tsu.interval = some due) :
    exec (.pulseDue k) s = .next { atPhase s due with
      oc := s.oc.set k ((s.oc.get k).emitted due ((s.oc.get k).dueLabel s.tsu.seconds)).serve } := by
  obtain ⟨hrunning, hpassed, hwithin⟩ := h
  rw [exec_pulseDue s hrunning, hphase]
  dsimp only
  rw [advanceTo_timely s due hpassed hwithin, servePulse_eq]
  rfl

/-! ## The end of a pulse (R163) -/

/-- The next due instant is that of the first epoch whose pulse is not served. -/
theorem nextDue_eq (c : Channel) (length next : Nat) :
    c.nextDue length next = some (
      if 0 ≤ c.settings.delay ∧ c.openingServed = false then 1000 * c.settings.delay
      else if c.closingServed = false then length + 1000 * c.settings.delay
      else length + 1000 * c.settings.delay + next) := by
  unfold Channel.nextDue ChannelSettings.delayPs
  rw [add_right_comm (length : Int) next, ite_and]
  simp only [apply_ite some]

/-- A pulse in progress ends at the lesser of the instant recorded and 100 ns before the next due instant (log entry 43). -/
theorem endInstant_eq {c : Channel} {end_ length next e : Nat} {due : Int} (hend : c.pulseEnd = some end_)
    (hdue : c.nextDue length next = some due) (he : (e : Int) = max 0 (min (end_ : Int) (due - 100000))) :
    c.endInstant length next = some e := by
  rw [Channel.endInstant, hend, hdue]
  refine congrArg some ?_
  dsimp only
  split <;> omega

/-- PULSE_END at its instant. -/
theorem exec_pulseEnd_timely {k : Port} {e : Nat} {s : State} (h : Timely s e)
    (hend : (s.oc.get k).endInstant s.tsu.interval s.tsu.nextInterval = some e) :
    exec (.pulseEnd k) s = .next { atPhase s e with oc := s.oc.set k (s.oc.get k).endPulse } := by
  obtain ⟨hrunning, hpassed, hwithin⟩ := h
  rw [exec_pulseEnd s hrunning, hend]
  dsimp only
  rw [if_pos hwithin, advanceTo_timely s e hpassed hwithin]
  rfl

/-! ## Loop updates (R37, R161, R165) -/

/-- The spending of the held estimates leaves the front end. -/
theorem spendEstimates_rfe (s : State) : s.spendEstimates.rfe = s.rfe :=
  List.foldlRecOn (motive := fun u : State => u.rfe = s.rfe) _ _ rfl fun _ h _ _ => h

/-- The decision of a loop update leaves the channels. -/
theorem updateDecision_oc (s : State) (order : List UpdatePart) : (s.updateDecision order).st.oc = s.oc :=
  (decideUpdate_rest _ _).1.trans (found_frame s order).oc

/-- The decision of a loop update leaves the windows. -/
theorem updateDecision_windows (s : State) (order : List UpdatePart) : (s.updateDecision order).st.rfe.windows = s.rfe.windows := by
  obtain ⟨-, hrfe, -⟩ := decideUpdate_rest (atLoop order s).spendEstimates ((atLoop order s).readLoop (gateOffset s))
  rw [hrfe, spendEstimates_rfe, atLoop_windows]

/-- A loop update ends with the hand-on of its decision, but for the samples after the loop. -/
theorem update_handOn (s : State) (order : List UpdatePart) :
    SampleFrame ((s.updateDecision order).handOn (atLoop order s) ((atLoop order s).readLoop (gateOffset s))) (s.update order) :=
  update_atLoop s order

/-- What a loop update leaves of a channel and its window: the budget check at its end, by the bound and the traceable flag that it leaves. -/
theorem update_channel (s : State) (order : List UpdatePart) (k : Port) :
    let u := s.update order
    let c' := checkedChannel u.tsu (s.oc.get k)
    u.oc.get k = c' ∧ u.rfe.windows.get k = if quietedBy (s.oc.get k) c' then flushed s k else s.rfe.windows.get k := by
  have hafter := update_handOn s order
  have hhandOn := handOn_channels (s.updateDecision order) (atLoop order s) ((atLoop order s).readLoop (gateOffset s)) k
  have hflushed : flushed (s.updateDecision order).st k = flushed s k := by
    unfold flushed
    rw [updateDecision_windows, updateDecision_site]
  dsimp only at hhandOn
  rwa [← hafter.oc, ← hafter.windows, ← hafter.tsu, updateDecision_oc, updateDecision_windows, hflushed] at hhandOn

end Sys2Proof.Machine
end

section
/-! The statements about the output channels, settled. -/

namespace Sys2Proof.OutputChannels

open Sys2Proof Sys2Proof.Machine Sys2Proof.Safety

/-- Settles O9: the epoch places the channel's TIME MARK, which replaces the one queued or finds room. -/
theorem epochPlacesTimeMark : Obligations.EpochPlacesTimeMark := by
  intro s k hrunning hmarks hroom
  obtain ⟨x, hcount, hport⟩ := raiseEpoch_marked s k hmarks
  obtain ⟨f, hf, hnotice, hpayload⟩ := place_mem 0 ((s.tp.get k).epoch s.tsu.interval) .timeMark x hroom
  exact ⟨s.raiseEpoch, exec_epoch s hrunning, f, hport ▸ hf, hnotice, hpayload ▸ hcount⟩

/-- Settles O38: by the sign of D the due instant serves the epoch that opened the interval or the one that closes it. -/
theorem pulseDueServed : Obligations.PulseDueServed := by
  intro k due s htimely
  refine ⟨fun hdelay hserved hdue => ?_, fun hdelay hserved hdue => ?_⟩
  · rw [exec_pulseDue_timely htimely (duePhase_opening _ hdelay hserved hdue), serve_opening (by rwa [emitted_settings]),
      Channel.dueLabel, if_pos hdelay]
    rfl
  · rw [exec_pulseDue_timely htimely (duePhase_closing hdelay hserved hdue), serve_closing (by rwa [emitted_settings]),
      Channel.dueLabel, if_neg (Int.not_le.2 hdelay)]
    rfl

/-- Settles O39: the instant stated is the model's end instant, at which the pulse ends. -/
theorem pulseEnds : Obligations.PulseEnds := by
  intro k e end_ s htimely hend _ _ _ he
  exact exec_pulseEnd_timely htimely (endInstant_eq hend (nextDue_eq _ _ _) he)

/-- Settles O41: the loop update ends with the budget checks, and each leaves of its channel what the statement lists. -/
theorem budgetFollowsBound : Obligations.BudgetFollowsBound := by
  intro order s hrunning
  refine ⟨s.update order, exec_loopUpdate s hrunning order, fun k _ => ?_⟩
  obtain ⟨hchannel, hwindow⟩ := update_channel s order k
  dsimp only
  rw [hchannel]
  exact ⟨rfl, rfl, rfl, rfl, hwindow⟩

end Sys2Proof.OutputChannels
end

section
/-! SUPPORT. Every command keeps every queue at 8 places at most, with one notice of each kind at most: what each operation on a port does to
its queue, and which operations a command makes (R171, R175 to R177, R181). -/

namespace Sys2Proof.Machine

open Sys2Proof Sys2Proof.Safety

/-! ## One queue -/

/-- Fewer frames in the places allowed are sound. -/
theorem queueSound_of_sublist {p q : TenantPort} (h : QueueSound p) (hqueue : q.queue.Sublist p.queue) (hplaces : q.places ≤ 8) :
    QueueSound q :=
  ⟨hplaces, fun k hk => (hqueue.filter (Frame.isNotice k)).length_le.trans (h.2 k hk)⟩

/-- A reservation holds one place at most. -/
theorem onOff_le_one (b : Bool) : onOff b ≤ 1 := by cases b <;> decide

/-- A frame joins a queue with room, where it is no second notice of its kind. -/
theorem append_queueSound {p : TenantPort} (h : QueueSound p) (phase : Nat) {f : Frame} (hroom : p.places < 8)
    (hfresh : ∀ k, f.notice = some k → noticeCount p.queue k = 0) : QueueSound (p.append phase f) := by
  refine ⟨(append_places phase p f).trans_le hroom, fun k hk => ?_⟩
  have hcount : noticeCount (p.append phase f).queue k = noticeCount p.queue k + noticeCount [f] k := by
    show ((p.queue ++ [f]).filter _).length = _
    rw [List.filter_append, List.length_append]
    rfl
  rw [hcount]
  by_cases hkind : f.notice = some k
  · rw [hfresh k hkind, Nat.zero_add]
    exact List.length_filter_le ..
  · have hother : noticeCount [f] k = 0 := by simp [noticeCount, Frame.isNotice, hkind]
    rw [hother]
    exact h.2 k hk

/-- Room made in a full queue leaves it sound, with a place free (R177). -/
theorem makeRoom_queueSound {p q : TenantPort} (h : QueueSound p) (hroom : p.makeRoom = some q) : QueueSound q ∧ q.places < 8 ∧
    q.queue.length + 1 = p.queue.length := by
  obtain ⟨-, hq, hqueue, hlength⟩ := makeRoom_cases p q hroom
  have hreservation : q.reservation = p.reservation := by rw [hq]
  have hplaces : q.places + 1 = p.places := by
    rw [TenantPort.places, TenantPort.places, hreservation, ← hlength]
    omega
  have hbefore := h.1
  exact ⟨queueSound_of_sublist h hqueue (by omega), by omega, hlength⟩

/-- A frame that joins leaves a queue sound, where it is no second notice of its kind (R176, R177). -/
theorem join_queueSound {p : TenantPort} (h : QueueSound p) (phase : Nat) {f : Frame}
    (hfresh : ∀ k, f.notice = some k → noticeCount p.queue k = 0) : QueueSound (p.join phase f) := by
  rcases join_cases phase p f with ⟨hroom, hjoin⟩ | ⟨q, hmade, hjoin⟩ | ⟨-, hjoin⟩
  · exact hjoin ▸ append_queueSound h phase hroom hfresh
  · obtain ⟨hsound, hroom, -⟩ := makeRoom_queueSound h hmade
    obtain ⟨-, -, hqueue, -⟩ := makeRoom_cases p q hmade
    exact hjoin ▸ append_queueSound hsound phase hroom fun k hk =>
      Nat.le_zero.1 ((hqueue.filter (Frame.isNotice k)).length_le.trans_eq (hfresh k hk))
  · exact hjoin ▸ h

/-- A notice placed replaces the one of its kind, or joins as the only one (R176). -/
theorem place_queueSound {p : TenantPort} (h : QueueSound p) (phase : Nat) (n : NoticeKind) (x : List Byte) :
    QueueSound (p.place phase n x) := by
  rcases place_cases phase p n x with ⟨-, hplace⟩ | ⟨habsent, hplace⟩
  · have hcount : ∀ k, noticeCount (p.place phase n x).queue k = noticeCount p.queue k := fun k => by
      have hkind : Frame.isNotice k ∘ (fun f => if f.isNotice n then { f with payload := x } else f) = Frame.isNotice k := by
        funext f
        dsimp only [Function.comp]
        split <;> rfl
      rw [hplace, noticeCount, List.filter_map, hkind, List.length_map]
      rfl
    refine ⟨?_, fun k hk => hcount k ▸ h.2 k hk⟩
    rw [hplace, TenantPort.places, List.length_map]
    exact h.1
  · rw [hplace]
    refine join_queueSound h phase fun k hk => ?_
    cases hk
    simpa [noticeCount, List.filter_eq_nil_iff] using habsent

/-- A reservation takes a free place, or the place of the notice removed for it (R175). -/
theorem reserve_queueSound {p : TenantPort} (h : QueueSound p) : QueueSound p.reserve := by
  unfold TenantPort.reserve
  split
  · next hroom =>
    have hlength : p.queue.length + onOff p.reservation < 8 := hroom
    exact queueSound_of_sublist h (.refl _) (show p.queue.length + 1 ≤ 8 by omega)
  · split
    · next q hmade =>
      obtain ⟨hsound, -, hlength⟩ := makeRoom_queueSound h hmade
      have hbefore : p.queue.length + onOff p.reservation ≤ 8 := h.1
      exact queueSound_of_sublist hsound (.refl _) (show q.queue.length + 1 ≤ 8 by omega)
    · exact h

/-- A deferred response takes the reservation's place (R175). -/
theorem redeem_queueSound {p : TenantPort} (h : QueueSound p) (phase : Nat) {f : Frame} (hresponse : f.notice = none) :
    QueueSound (p.redeem phase f) := by
  have hfreed : QueueSound { p with reservation := false } :=
    queueSound_of_sublist h (.refl _) ((Nat.add_le_add_left (Nat.zero_le _) _).trans h.1)
  exact join_queueSound hfreed phase fun k hk => nomatch hresponse.symm.trans hk

/-- The first edge of a transaction takes the head of the queue (R171). -/
theorem begin_queueSound {p : TenantPort} (h : QueueSound p) : QueueSound p.begin := by
  unfold TenantPort.begin
  split
  · exact h
  · exact h
  · next f fs _ hqueue =>
    have hlength : p.queue.length + onOff p.reservation ≤ 8 := h.1
    rw [hqueue, List.length_cons] at hlength
    exact queueSound_of_sublist h (by rw [hqueue]; exact List.sublist_cons_self f fs) (show fs.length + onOff p.reservation ≤ 8 by omega)

theorem statusOut_queueSound {p : TenantPort} (h : QueueSound p) : QueueSound p.statusOut := by
  unfold TenantPort.statusOut
  split
  · exact h
  · split <;> exact h

theorem finish_queueSound {p : TenantPort} (h : QueueSound p) (sent : Nat) : QueueSound (p.finish sent) := by
  unfold TenantPort.finish
  split <;> exact h

/-- A cleared port keeps its reservation alone (R181). -/
theorem clear_places_le (p : TenantPort) : p.clear.places ≤ 1 := (Nat.zero_add _).trans_le (onOff_le_one p.reservation)

theorem clear_queueSound (p : TenantPort) : QueueSound p.clear := ⟨(clear_places_le p).trans (by decide), fun _ _ => Nat.zero_le _⟩

/-! ## The queues of the part -/

theorem queuesSound_of_tp {s u : State} (h : QueuesSound s) (htp : u.tp = s.tp) : QueuesSound u := by
  rw [QueuesSound, htp]
  exact h

theorem onPort_queuesSound {s : State} (h : QueuesSound s) (k : Port) {f : TenantPort → TenantPort}
    (hf : QueueSound (s.tp.get k) → QueueSound (f (s.tp.get k))) : QueuesSound (s.onPort k f) := fun j hj => by
  rw [State.onPort, perPort_get_set]
  split
  · exact hf (h k (mem_ports k))
  · exact h j hj

theorem notice_queuesSound {s : State} (h : QueuesSound s) (k : Port) (n : NoticeKind) (x : List Byte) : QueuesSound (s.notice k n x) :=
  onPort_queuesSound h k fun hk => place_queueSound hk _ n x

theorem noticeAll_queuesSound {s : State} (h : QueuesSound s) (n : NoticeKind) (x : List Byte) : QueuesSound (s.noticeAll n x) :=
  fun k hk => by
    rw [State.noticeAll, perPort_get_map]
    exact place_queueSound (h k hk) _ n x

theorem respond_queuesSound {s : State} (h : QueuesSound s) (k : Port) (kind : Nat) (x : List Byte) : QueuesSound (s.respond k kind x) :=
  onPort_queuesSound h k fun hk => join_queueSound hk _ fun _ hnotice => nomatch hnotice

/-- A fold over the ports keeps the queues sound where each step does. -/
theorem foldl_queuesSound {f : State → Port → State} (step : ∀ v k, QueuesSound v → QueuesSound (f v k)) (ks : List Port) {s : State}
    (h : QueuesSound s) : QueuesSound (ks.foldl f s) :=
  List.foldlRecOn ks f h fun v hv k _ => step v k hv

/-! ## Events of the Qualifier and the front end (R67) -/

@[simp] theorem State.evaluate_tp (s : State) (t : Trigger) : (s.evaluate t).tp = s.tp := by
  unfold State.evaluate
  dsimp only
  split <;> rfl

@[simp] theorem Work.expire_tp (w : Work) (r : Ref) : (w.expire r).st.tp = w.st.tp := by
  unfold Work.expire
  split
  · rfl
  · refine (State.forgetHistory_tp _ r).trans ?_
    cases r with
    | f1 => rfl
    | phase r => cases r <;> rfl

theorem finish_queuesSound {w : Work} (h : QueuesSound w.st) (t : Trigger) : QueuesSound (w.finish t) := by
  have hevaluated : QueuesSound (w.st.evaluate t) := queuesSound_of_tp h (w.st.evaluate_tp t)
  unfold Work.finish
  dsimp only
  split
  · exact hevaluated
  · exact noticeAll_queuesSound (s := (w.st.evaluate t).countChange) hevaluated _ _

theorem SamplesTaken.queuesSound {s u : State} (g : SamplesTaken s u) (h : QueuesSound s) : QueuesSound u := by
  induction g with
  | refl => exact h
  | rfe x _ ih => exact ih
  | @sample u r x _ ih =>
    unfold State.sample
    split
    · exact ih
    · exact finish_queuesSound (queuesSound_of_tp ih (Work.take_tp ⟨u, []⟩ r x)) _

/-- What a changed setting does at once keeps the queues sound (R186). -/
theorem settingChanged_queuesSound {s : State} (h : QueuesSound s) (x : Setting) (old : Int) : QueuesSound (s.settingChanged x old) := by
  unfold State.settingChanged
  split
  · refine finish_queuesSound (queuesSound_of_tp h ?_) _
    split
    · exact Work.inhibit_tp _ _
    · exact Work.release_tp _ _
  · exact finish_queuesSound h _
  · exact finish_queuesSound h _
  · split
    · exact queuesSound_of_tp h (s.lowerFaultLimit_tp _)
    · exact h
  · exact (SamplesTaken.refl.thresholdChanged).queuesSound h
  · exact h
  · exact h

theorem applySetting_queuesSound {s : State} (h : QueuesSound s) (k : Port) (x : Setting) (v : Int) :
    QueuesSound (s.applySetting k x v) := by
  unfold State.applySetting
  split
  · exact h
  · have hput : QueuesSound (s.settingPut k x v) := fun j hj => by
      rw [State.settingPut, State.noticeAll, perPort_get_map]
      exact place_queueSound (h j hj) _ _ _
    rw [changeSetting_eq]
    exact settingChanged_queuesSound hput x _

/-! ## Reports to every port (R114, R140) -/

theorem reportHealth_queuesSound {s : State} (h : QueuesSound s) (before : State) : QueuesSound (s.reportHealth before) := by
  unfold State.reportHealth
  dsimp only
  split
  · exact h
  · exact noticeAll_queuesSound (s := s.recompute) h _ _

theorem noticeEpisode_queuesSound {s : State} (h : QueuesSound s) (closed : Bool) : QueuesSound (s.noticeEpisode closed) := by
  unfold State.noticeEpisode
  split
  · exact h
  · exact noticeAll_queuesSound h _ _

/-! ## The requests' owners -/

theorem requestSave_queuesSound {s : State} (h : QueuesSound s) (k : Port) (kind : Nat) (a : Area) :
    QueuesSound (s.requestSave k kind a) := by
  unfold State.requestSave
  split
  · exact onPort_queuesSound h k reserve_queueSound
  · exact respond_queuesSound h k _ _

theorem answerPortSet_queuesSound {s : State} (h : QueuesSound s) (k : Port) (m p l : Byte) : QueuesSound (answerPortSet k m p l s) := by
  unfold answerPortSet
  split
  · exact respond_queuesSound (onPort_queuesSound h k id) k _ _
  · exact respond_queuesSound h k _ _

theorem applyChannel_tp (s : State) (k : Port) (x : ChannelSettings) : (s.applyChannel k x).tp = s.tp := by rw [applyChannel_spec]

/-- Every request's owner keeps the queues sound. -/
theorem answer_queuesSound {s : State} (h : QueuesSound s) (k : Port) (note : PortNote) (q : Request) :
    QueuesSound (s.answer k note q) := by
  cases q with
  | poll => exact h
  | portSet m p l => exact answerPortSet_queuesSound h k m p l
  | portReset =>
    exact respond_queuesSound (s := (s.onPort k TenantPort.clear).flushWindow k) (onPort_queuesSound h k fun _ => clear_queueSound _) k _ _
  | offsetReport f => exact respond_queuesSound (SamplesTaken.queuesSound (.takeReport .refl) h) k _ _
  | modelClear =>
    refine respond_queuesSound ?_ k _ _
    split
    · exact reportHealth_queuesSound (s := s.clearModel) h s
    · exact h
  | channelSet f =>
    simp only [State.answer, answerChannelSet]
    split
    · exact respond_queuesSound h k _ _
    · exact respond_queuesSound (queuesSound_of_tp h (applyChannel_tp s k _)) k _ _
  | siteSet i n v =>
    simp only [State.answer, answerSiteSet]
    split
    · exact respond_queuesSound h k _ _
    · exact respond_queuesSound (applySetting_queuesSound h k _ _) k _ _
  | siteFreeze =>
    refine respond_queuesSound ?_ k _ _
    unfold State.freeze
    dsimp only
    split
    · exact h
    · exact noticeAll_queuesSound (s := { s with sst := { s.sst with frozen := true } }) h _ _
  | siteSave => exact requestSave_queuesSound h k 0x13 .site
  | modelSave => exact requestSave_queuesSound h k 0x14 .model
  | _ => exact respond_queuesSound h k _ _

theorem dispatch_queuesSound {s : State} (h : QueuesSound s) (k : Port) (note : PortNote) (q : Request) :
    QueuesSound (s.dispatch k note q) := by
  unfold State.dispatch
  split
  · exact h
  · split
    · exact respond_queuesSound h k _ _
    · exact answer_queuesSound h k note q

theorem request_queuesSound {s : State} (h : QueuesSound s) (k : Port) (t : Nat) (q : Request) : QueuesSound (s.request k t q) := by
  have hbegun : QueueSound (s.tp.get k).begin.statusOut := statusOut_queueSound (begin_queueSound (h k (mem_ports k)))
  have hdelivered : QueuesSound ((s.advanceTo t).onPort k (fun p => p.begin.statusOut.delivered)) :=
    onPort_queuesSound (s := s.advanceTo t) h k fun _ => hbegun
  exact dispatch_queuesSound (onPort_queuesSound hdelivered k id) k _ q

theorem receive_queuesSound {s : State} (h : QueuesSound s) (k : Port) (x : Inbound) : QueuesSound (s.receive k x) := by
  have hgood : QueuesSound (s.onPort k TenantPort.goodFrame) := onPort_queuesSound h k id
  unfold State.receive State.dispatchFrame
  split
  · exact onPort_queuesSound h k id
  · split
    · exact respond_queuesSound hgood k _ _
    · exact respond_queuesSound hgood k _ _
    · exact dispatch_queuesSound hgood k _ _

/-! ## Epochs, sensor sequences, saves and loading -/

theorem timeMarks_queuesSound {s : State} (h : QueuesSound s) : QueuesSound s.timeMarks := by
  refine foldl_queuesSound (fun v k hv => ?_) ports h
  split
  · exact notice_queuesSound hv k _ _
  · exact hv

theorem raiseEpoch_queuesSound {s : State} (h : QueuesSound s) : QueuesSound s.raiseEpoch := by
  refine timeMarks_queuesSound ?_
  rw [minuteMark_keeps]
  intro k hk
  show QueueSound ((s.tp.map fun p => p.epoch s.tsu.interval).get k)
  rw [perPort_get_map]
  exact h k hk

theorem completeSequence_queuesSound {s : State} (h : QueuesSound s) (raw : RawCounts) : QueuesSound (s.completeSequence raw) := by
  unfold State.completeSequence State.warmStep
  refine reportHealth_queuesSound ?_ s
  dsimp only
  split <;> split <;> exact h

/-- The end of a save redeems its reservation, or places a STORE notice (R175, R194). -/
theorem endSave_queuesSound {s : State} (h : QueuesSound s) (v : Save) (ok : Bool) (done begun : Nat) :
    QueuesSound (s.endSave v ok done begun) := by
  have htold : QueuesSound ((s.recordSave v ok done begun).tellSave v ok) := by
    unfold State.tellSave
    split
    · next k _ => exact onPort_queuesSound (s := s.recordSave v ok done begun) h k fun hk => redeem_queueSound hk _ rfl
    · exact noticeAll_queuesSound (s := s.recordSave v ok done begun) h _ _
  unfold State.endSave State.startPending
  split <;> exact htold

@[simp] theorem State.inhibitEffects_tp (s : State) (r : Ref) : (s.inhibitEffects r).tp = s.tp := by
  refine Eq.trans ?_ (State.forgetHistory_tp ((s.zeroCounts r).onRecord r (fun y => { y with lastEstimate := none })) r)
  cases r with
  | f1 => rfl
  | phase r => cases r <;> rfl

@[simp] theorem State.countChange_tp (s : State) : s.countChange.tp = s.tp := rfl

@[simp] theorem State.inhibitAtStart_tp (s : State) : s.inhibitAtStart.tp = s.tp := by
  have hone : ∀ (u : State) (r : Ref), (u.inhibitOne r).tp = u.tp := fun u r => by
    unfold State.inhibitOne
    split
    · exact State.inhibitEffects_tp _ r
    · rfl
  have hall : s.inhibitAll.tp = s.tp := by
    unfold State.inhibitAll
    exact List.foldlRecOn (motive := fun u : State => u.tp = s.tp) refs State.inhibitOne rfl fun u hu r _ => (hone u r).trans hu
  have hevaluated : (s.inhibitAll.evaluate .other).tp = s.tp := (State.evaluate_tp _ _).trans hall
  rcases inhibitAtStart_cases s with hstart | hstart
  · rw [hstart, State.countChange_tp, hevaluated]
  · rw [hstart, hevaluated]

theorem endLoading_queuesSound {s : State} (h : QueuesSound s) (before : State) : QueuesSound (s.endLoading before) := by
  unfold State.endLoading
  exact reportHealth_queuesSound (queuesSound_of_tp h (by rw [State.inhibitAtStart_tp])) before

theorem loadModel_queuesSound {s : State} (h : QueuesSound s) (content : Option (List Byte)) : QueuesSound (s.loadModel content) := by
  unfold State.loadModel
  split
  · exact endLoading_queuesSound h s
  · next c =>
    refine endLoading_queuesSound ?_ s
    unfold State.interruptEpisode
    split
    · exact noticeEpisode_queuesSound (s := { s.restore (restoredOf c) with
        hop := { (s.restore (restoredOf c)).hop with episodes := interrupt (s.restore (restoredOf c)).hop.episodes } }) h true
    · exact h

/-! ## Loop updates -/

theorem follow_tp (v : State) (f r : PhaseRef) (x : PhaseEstimate) : (v.follow f r x).st.tp = v.tp := by
  unfold State.follow
  dsimp only
  split
  · rfl
  · split
    · rfl
    · split <;> rfl

/-- A decision places an EPISODE notice at most (R140). -/
theorem decideUpdate_queuesSound {v : State} (h : QueuesSound v) (x : LoopInput) : QueuesSound (v.decideUpdate x).st := by
  have hlose : ∀ f, QueuesSound (v.loseReference f x).st := fun f => by
    have hsteered : ∀ (w : State) (e : Entry) (d : Option Int), (w.enterSteering e d).1.tp = w.tp := fun w e d => by
      unfold State.enterSteering
      split <;> rfl
    exact noticeEpisode_queuesSound (s := (v.entrySteered f x).1) (queuesSound_of_tp h (hsteered _ _ _)) false
  have hfollowing : ∀ f, QueuesSound (v.decideFollowing f x).st := fun f => by
    unfold State.decideFollowing
    split
    · exact hlose f
    · exact queuesSound_of_tp h (follow_tp v f _ _)
    · exact h
  have hregain : ∀ r e, QueuesSound (v.regain r e).st := fun r e => by
    have hexited : QueuesSound (v.exitHoldover e.e) :=
      noticeEpisode_queuesSound (s := { v with hop := v.hop.closeEpisode e.e }) h true
    unfold State.regain
    dsimp only
    split <;> exact hexited
  unfold State.decideUpdate
  split
  · split <;> exact h
  · exact hfollowing _
  · exact hfollowing _
  · split
    · exact hregain _ _
    · rw [runHoldover_st]
      exact h

theorem budgetChecks_queuesSound {s : State} (h : QueuesSound s) : QueuesSound s.budgetChecks := by
  refine foldl_queuesSound (fun v k hv => ?_) ports h
  have hevaluated : ∀ w : State, w.tp = v.tp → QueuesSound (w.evaluateChannel k) := fun w hw => by
    obtain ⟨_, _, hkept⟩ := evaluateChannel_keeps w k
    rw [hkept]
    exact queuesSound_of_tp hv hw
  unfold State.budgetCheck
  dsimp only
  split
  · exact hevaluated _ rfl
  · refine notice_queuesSound (hevaluated _ ?_) k _ _
    rfl

/-- The end of an update places notices and time marks (R12, R114, R165, R169). -/
theorem handOn_queuesSound {r : Decision} (h : QueuesSound r.st) (before : State) (x : LoopInput) : QueuesSound (r.handOn before x) := by
  have hreported : QueuesSound ((r.st.steer.learnUpdate before.dlp.engine x).reportHealth before) := by
    obtain ⟨l, hlearnt⟩ := learnUpdate_keeps r.st.steer before.dlp.engine x
    rw [hlearnt]
    exact reportHealth_queuesSound (s := { r.st.steer with lrn := l }) h before
  have hannounced : ∀ v : State, QueuesSound v → QueuesSound (v.announce before) := fun v hv => by
    unfold State.announce
    split
    · exact hv
    · exact noticeAll_queuesSound hv _ _
  have hcorrected : ∀ v : State, QueuesSound v → QueuesSound (v.correctMarks r.whole) := fun v hv => by
    unfold State.correctMarks
    split
    · exact hv
    · exact timeMarks_queuesSound hv
  exact hcorrected _ (budgetChecks_queuesSound (hannounced _ hreported))

theorem update_queuesSound {s : State} (h : QueuesSound s) (order : List UpdatePart) : QueuesSound (s.update order) := by
  obtain ⟨v, d, hbefore, hafter⟩ := update_samplesTaken s order
  have hspent : QueuesSound v.spendEstimates := hbefore.queuesSound h
  exact hafter.queuesSound (handOn_queuesSound (decideUpdate_queuesSound hspent _) v _)

/-! ## Every command -/

theorem exec_queuesSound {c : Instr} {s u : State} (h : QueuesSound s) (hexec : exec c s = .next u) : QueuesSound u := by
  have hkeep : ∀ {f : State → State}, (∀ v, exec c v = whileRunning v f) → QueuesSound (f s) → QueuesSound u :=
    fun heffect hf => exec_preserves QueuesSound hexec heffect h hf
  cases c with
  | hardwareReset cause progress =>
    cases hexec
    exact fun k _ => (perPort_get_same TenantPort.reset k).symm ▸ queueSound_reset
  | resetRelease =>
    cases hexec
    split <;> exact h
  | siteLoad a => exact hkeep (fun _ => rfl) (by split <;> exact h)
  | modelLoad t a =>
    refine hkeep (fun _ => rfl) ?_
    dsimp only
    split
    · exact loadModel_queuesSound (s := s.advanceTo t) h _
    · exact h
  | epoch => exact hkeep (fun _ => rfl) (raiseEpoch_queuesSound h)
  | autosave => exact hkeep (fun _ => rfl) (by split <;> [split <;> exact h; exact h])
  | holdOffExpiry r =>
    refine hkeep (fun _ => rfl) ?_
    split
    · exact finish_queuesSound (queuesSound_of_tp h (Work.expire_tp ⟨s, []⟩ r)) _
    · exact h
  | settlingExpiry => exact hkeep (fun _ => rfl) (by split <;> exact h)
  | loopUpdate order => exact hkeep (fun _ => rfl) (update_queuesSound h order)
  | pulseArrival p t => exact hkeep (fun _ => rfl) (SamplesTaken.queuesSound (s := s.advanceTo t) (.pulse .refl) h)
  | staleTimerExpiry k =>
    refine hkeep (fun _ => rfl) ?_
    split
    · exact SamplesTaken.queuesSound (.staleExpiry .refl) h
    · exact h
  | pulseDue k => exact hkeep (fun _ => rfl) (by split <;> exact h)
  | pulseEnd k => exact hkeep (fun _ => rfl) (by split <;> [exact h; split <;> exact h])
  | attentionPulseEnd k =>
    refine hkeep (fun _ => rfl) ?_
    split
    · exact h
    · split
      · exact onPort_queuesSound (s := s.advanceTo _) h k id
      · exact h
  | vctlSample => exact hkeep (fun _ => rfl) (by split <;> exact h)
  | sequenceComplete t raw =>
    refine hkeep (fun _ => rfl) ?_
    dsimp only
    split
    · exact completeSequence_queuesSound (s := s.advanceTo t) h raw
    · exact h
  | transactionStart k => exact hkeep (fun _ => rfl) (onPort_queuesSound h k begin_queueSound)
  | statusByteClockedOut k => exact hkeep (fun _ => rfl) (onPort_queuesSound h k statusOut_queueSound)
  | frameReceived k t bytes =>
    refine hkeep (fun _ => rfl) ?_
    dsimp only
    split
    · exact receive_queuesSound (onPort_queuesSound (s := s.advanceTo t) h k fun hk => finish_queueSound hk _) k _
    · exact h
  | saveEnd t clean =>
    refine hkeep (fun _ => rfl) ?_
    split
    · exact endSave_queuesSound (s := s.advanceTo t) h _ _ _ _
    · exact h
  | saveTimeout t progress =>
    refine hkeep (fun _ => rfl) ?_
    split
    · exact endSave_queuesSound (s := s.advanceTo t) h _ _ _ _
    · exact h
  | powerFailWarning => exact hkeep (fun _ => rfl) (by split <;> [exact h; split <;> exact h; exact h])
  | slewTick _ | f1Edge _ | companionRecord _ _ | sensorSequenceStart => exact hkeep (fun _ => rfl) h
  | _ => exact hkeep (fun _ => rfl) (request_queuesSound h _ _ _) -- the requests

end Sys2Proof.Machine
end

section
/-! SUPPORT. The frames of requests: when the bytes received are a bad frame, and what a request's frame reads back (R172, R174, R195, R196). -/

namespace Sys2Proof.Machine

open Sys2Proof Sys2Proof.Safety

/-! ## Judging (R172) -/

/-- The bytes of a frame that is short, or whose CRC-8 differs, are judged bad. -/
theorem judgeFrame_bad (bytes : List Byte)
    (h : bytes.length < 3 ∨ 60 < (bytes.getD 1 0).toNat ∨ bytes.length < 3 + (bytes.getD 1 0).toNat ∨
      bytes.getD (2 + (bytes.getD 1 0).toNat) 0 ≠ crc8 (bytes.take (2 + (bytes.getD 1 0).toNat))) : judgeFrame bytes = .bad := by
  match bytes with
  | [] => rfl
  | [_] => rfl
  | kind :: len :: rest =>
    have hlen : (kind :: len :: rest).getD 1 0 = len := rfl
    have hcrc : ∀ n, (kind :: len :: rest).getD (2 + n) 0 = at_ rest n := fun n => by
      rw [Nat.add_comm]
      rfl
    have hbody : ∀ n, (kind :: len :: rest).take (2 + n) = kind :: len :: rest.take n := fun n => by
      rw [Nat.add_comm]
      rfl
    rw [hlen, hcrc, hbody] at h
    simp only [List.length_cons] at h
    unfold judgeFrame
    dsimp only
    split
    · rfl
    · next hfits =>
      split
      · rfl
      · next hwhole =>
        have hdiffers : at_ rest len.toNat ≠ crc8 (kind :: len :: rest.take len.toNat) := by
          rcases h with h | h | h | h
          · omega
          · omega
          · omega
          · exact h
        exact if_pos hdiffers

/-- A frame of a kind and a payload that fits, with its CRC-8, is judged good, whatever bytes follow. -/
theorem judgeFrame_good (kind : Byte) (payload fill : List Byte) (h : payload.length ≤ 60) :
    judgeFrame (List.append (List.append (kind :: byte payload.length :: payload) [crc8 (kind :: byte payload.length :: payload)]) fill) =
      .good kind payload := by
  have hbytes : List.append (List.append (kind :: byte payload.length :: payload) [crc8 (kind :: byte payload.length :: payload)]) fill =
      kind :: byte payload.length :: (payload ++ crc8 (kind :: byte payload.length :: payload) :: fill) := by simp
  have hlen : (byte payload.length).toNat = payload.length := (BitVec.toNat_ofNat ..).trans (Nat.mod_eq_of_lt (by omega))
  rw [hbytes]
  unfold judgeFrame
  simp only [hlen, List.take_left']
  rw [if_neg (by omega), if_neg (by simp), if_neg]
  simp [at_]

/-! ## Fields (R195) -/

/-- A field in front, of as many bytes as its bits need, written and read. -/
theorem field_here {w n : Nat} (x : BitVec w) (rest : List Byte) (hwidth : 2 ^ w ≤ 256 ^ n) :
    field w 0 n (beBytes n x.toNat ++ rest) = x := by
  rw [field, slice_here _ _ _ (beBytes_length ..), natOf_beBytes, Nat.mod_eq_of_lt (x.isLt.trans_le hwidth), BitVec.ofNat_toNat,
    BitVec.setWidth_eq]

/-- A field past another in a row is one of the fields that follow. -/
theorem field_skip {w off n : Nat} (p rest : List Byte) (h : p.length ≤ off) : field w off n (p ++ rest) = field w (off - p.length) n rest := by
  rw [field, slice_skip _ _ _ _ h, field]

/-- The payload of an OFFSET REPORT, written and read (section 11.4). -/
theorem offsetFieldsOf_offsetPayload (f : OffsetFields) : offsetFieldsOf (offsetPayload f) = f := by
  have hrow : offsetPayload f = beBytes 2 f.sequence.toNat ++ (beBytes 6 f.masterSec.toNat ++ (beBytes 4 f.masterNs.toNat ++
      (beBytes 5 f.offset.toNat ++ (beBytes 5 f.delay.toNat ++ [f.grade, f.flags])))) := by simp [offsetPayload]
  have hgrade : at_ (offsetPayload f) 22 = f.grade := rfl
  have hflags : at_ (offsetPayload f) 23 = f.flags := rfl
  unfold offsetFieldsOf
  rw [hgrade, hflags, hrow]
  simp only [field_skip, field_here, beBytes_length, Nat.reduceLeDiff, Nat.reduceSub, Nat.reducePow]

/-- The payload of a CHANNEL SET, written and read (section 11.5). -/
theorem channelFieldsOf_channelPayload (f : ChannelFields) : channelFieldsOf (channelPayload f) = f := by
  have hrow : channelPayload f = beBytes 4 f.delay.toNat ++ (beBytes 4 f.width.toNat ++ (beBytes 4 f.limit.toNat ++
      [f.polarity, f.action, f.requireTrac, f.timeMarks, f.enabled])) := by simp [channelPayload]
  have hbytes : channelFieldsOf (channelPayload f) = { f with
      delay := field 32 0 4 (channelPayload f), width := field 32 4 4 (channelPayload f), limit := field 32 8 4 (channelPayload f) } := rfl
  rw [hbytes, hrow]
  simp only [field_skip, field_here, beBytes_length, Nat.reduceLeDiff, Nat.reduceSub, Nat.reducePow]

/-- The value of a SITE SET, written and read (section 11.6). -/
theorem field_siteSet (ident inst : Byte) (v : BitVec 48) : field 48 2 6 (ident :: inst :: beBytes 6 v.toNat) = v := by
  have hrow : ident :: inst :: beBytes 6 v.toNat = [ident, inst] ++ (beBytes 6 v.toNat ++ []) := by simp
  rw [hrow]
  exact (field_skip [ident, inst] _ (Nat.le_refl 2)).trans (field_here v [] (by decide))

/-! ## Requests (R172, R174) -/

/-- The payload of every request fits a frame. -/
theorem payload_length_le (q : Request) : q.payload.length ≤ 60 := by
  cases q with
  | offsetReport f => exact (by simp [offsetPayload] : (offsetPayload f).length = 24).trans_le (by decide)
  | channelSet f => exact (by simp [channelPayload] : (channelPayload f).length = 17).trans_le (by decide)
  | siteSet i n v => exact (by simp : (i :: n :: beBytes 6 v.toNat).length = 8).trans_le (by decide)
  | _ => exact of_decide_eq_true rfl

/-- A request's frame is good, with its kind and its payload. -/
theorem judgeFrame_frame (q : Request) (fill : List Byte) : judgeFrame (List.append q.frame fill) = .good (byte q.kind) q.payload :=
  judgeFrame_good _ _ _ (payload_length_le q)

/-- A kind and a payload of the length it requires give the request they spell. -/
theorem parse_of_read {kind : Byte} {payload : List Byte} {q : Request} (hlength : requestLength kind.toNat = some payload.length)
    (hread : Request.read kind.toNat payload = some q) : parse kind payload = .request q := by
  unfold parse
  rw [hlength, hread]
  exact if_pos rfl

/-- A request's kind and payload give it back. -/
theorem parse_payload (q : Request) : parse (byte q.kind) q.payload = .request q := by
  cases q with
  | offsetReport f => exact parse_of_read rfl (congrArg (some ∘ Request.offsetReport) (offsetFieldsOf_offsetPayload f))
  | channelSet f => exact parse_of_read rfl (congrArg (some ∘ Request.channelSet) (channelFieldsOf_channelPayload f))
  | siteSet i n v => exact parse_of_read rfl (congrArg (some ∘ Request.siteSet i n) (field_siteSet i n v))
  | _ => exact parse_of_read rfl rfl

end Sys2Proof.Machine
end

section
/-! SUPPORT. A transaction on a port: its first edge, its status byte, and the release of CS with a bad frame or a request's (R171 to R174). -/

namespace Sys2Proof.Machine

open Sys2Proof Sys2Proof.Safety

/-! ## The start of a transaction (R171) -/

/-- A status byte's three fields as one sum (section 11.2). -/
theorem statusByte_eq (depth : Nat) (dropped : Bool) (state : PortState) : statusByte depth dropped state =
    BitVec.ofNat 8 (min depth 7 + (if dropped then 8 else 0) + (if state = .suspect then 16 else 0)) := by
  have hdropped : 8 * onOff dropped = if dropped then 8 else 0 := by cases dropped <;> rfl
  have hstate : 16 * onOff (state == .suspect) = if state = .suspect then 16 else 0 := by cases state <;> rfl
  rw [statusByte, hdropped, hstate, byte]

/-- The first edge takes the head of the queue, or the idle frame, with the depth left in its status byte. -/
theorem begin_eq (p : TenantPort) (h : p.transmit = none) : p.begin =
    { p with queue := p.queue.tail, transmit := some ⟨p.queue.head?, statusByte (p.queue.length - 1) p.dropped p.state, false⟩ } := by
  obtain ⟨state, badCount, queue, reservation, dropped, mode, polarity, faultLimit, pulseEnd, transmit⟩ := p
  cases h
  cases queue <;> rfl

theorem statusOut_eq (p : TenantPort) (x : Transmit) (h : p.transmit = some x) (hout : x.statusOut = false) :
    p.statusOut = { p with dropped := false, transmit := some { x with statusOut := true } } := by
  simp [TenantPort.statusOut, h, hout]

/-! ## The release of CS (R171, R172) -/

theorem exec_frameReceived_timely {k : Port} {t : Nat} {s : State} (bytes : List Byte) (h : Timely s t)
    (htransmit : (s.tp.get k).transmit.isSome = true) :
    exec (.frameReceived k t bytes) s = .next (((atPhase s t).onPort k (fun p => p.finish bytes.length)).receive k (judgeFrame bytes)) := by
  obtain ⟨hrunning, hpassed, hlength⟩ := h
  rw [exec_frameReceived s hrunning, advanceTo_timely s t hpassed hlength]
  exact congrArg _ (if_pos htransmit)

/-- The transaction ends, and a frame of the queue that is cut short is lost (R171). -/
theorem finish_eq (p : TenantPort) (x : Transmit) (sent : Nat) (h : p.transmit = some x) : p.finish sent =
    { p with
      transmit := none
      dropped := p.dropped || (x.frame.isSome && decide (sent < 4 + (x.frame.map (fun f => f.payload.length)).getD 0)) } := by
  unfold TenantPort.finish
  rw [h]
  rfl

/-- A bad frame counts, and makes the port SUSPECT at the fault limit (R173). -/
theorem badFrame_eq (p : TenantPort) : p.badFrame =
    { p with
      badCount := min 255 (p.badCount + 1)
      state := if p.faultLimit ≤ min 255 (p.badCount + 1) then .suspect else p.state } := by
  rw [← satSucc_eq_min, TenantPort.badFrame]

/-- A transaction that clocks the whole outbound frame out delivers it (R171). -/
theorem finish_delivered (p : TenantPort) (sent : Nat) (h : p.transmit = none) (hsent : outboundSize p ≤ sent) :
    p.begin.statusOut.finish sent = p.begin.statusOut.delivered := by
  have hwhole : decide (sent < outboundSize p) = false := decide_eq_false (Nat.not_lt.2 hsent)
  rw [begin_eq p h, statusOut_eq _ _ rfl rfl, finish_eq _ _ _ rfl]
  show ({ p with queue := _, dropped := false || (_ && decide (sent < outboundSize p)), transmit := _ } : TenantPort) = _
  rw [hwhole, Bool.and_false]
  rfl

end Sys2Proof.Machine
end

section
/-! SUPPORT. The requests of a port and of the store at their dispatch: those answered in every store state, BUSY, PORT SET, PORT RESET and the
saves (R174, R175, R180 to R183, R190). -/

namespace Sys2Proof.Machine

open Sys2Proof Sys2Proof.Safety

/-! ## Dispatch in every store state (R174) -/

/-- POLL, STATUS and IDENTIFY meet their owner whatever the store does. -/
theorem dispatch_always (s : State) (k : Port) (note : PortNote) (q : Request) (h : q = .poll ∨ q.always = true) :
    s.dispatch k note q = s.answer k note q := by
  unfold State.dispatch
  split
  · next hpoll => rw [hpoll, State.answer]
  · next hpoll => exact if_neg fun hbusy => Bool.false_ne_true (hbusy.2.symm.trans (h.resolve_left hpoll))

/-- A request that is always met, on a ready port: its owner answers it at the dispatch. -/
theorem exec_command_always (s : State) (k : Port) (t : Nat) (q : Request) (hready : Ready s k t) (h : q = .poll ∨ q.always = true) :
    exec (command k t q) s = .next ((atDispatch s k t).answer k (s.tp.get k).note q) := by
  rw [exec_command s hready.1.1, request_ready s k t q hready, dispatch_always _ k _ q h]

/-- While the store is LOADING a request that is not always met is answered BUSY. -/
theorem exec_command_busy (s : State) (k : Port) (t : Nat) (q : Request) (hready : Ready s k t) (hloading : s.stc.store.isLoading = true)
    (hpoll : q ≠ .poll) (howner : q.always = false) : exec (command k t q) s = .next (answered s k t q.kind [4]) := by
  have hbusy : (atDispatch s k t).dispatch k (s.tp.get k).note q = (atDispatch s k t).respond k q.kind (resultOnly .busy) := by
    unfold State.dispatch
    rw [if_neg hpoll]
    exact if_pos ⟨hloading, howner⟩
  rw [exec_command s hready.1.1, request_ready s k t q hready, hbusy, respond_atDispatch s k t _ _ hready, resultOnly, u1_of_lt _ (by decide)]
  rfl

theorem identity_length (x : Stc) : x.identity.length = 16 := by simp [Stc.identity]

/-- The identity record has 17 bytes, which sum to 0 (R183, R196). -/
theorem identityRecord_spec (x : Stc) : x.identityRecord.length = 17 ∧ x.identityRecord.foldl (· + ·) 0 = 0#8 :=
  ⟨(List.length_append ..).trans (by rw [identity_length]; rfl), sums_body x.identity⟩

/-! ## A port's own requests (R179 to R181) -/

theorem collected_of_atDispatch (s : State) (k : Port) (t : Nat) : (atDispatch s k t).tp.get k = collected (s.tp.get k) :=
  perPort_get_set_same _ _ _

/-- A port replaced at the dispatch, and a response that finds room there. -/
theorem respond_withPort (s : State) (k : Port) (t kind : Nat) (p : TenantPort) (x : List Byte) (h : p.places < 8) :
    (withPort s k t p).respond k kind x = withPort s k t (withResponse p t kind x) := by
  have hport : (withPort s k t p).tp.get k = p := perPort_get_set_same _ _ _
  rw [respond_of_room _ _ _ _ (by rwa [hport]), hport]
  simp only [withPort, perPort_set_set]
  rfl

/-- A port changed at the dispatch. -/
theorem onPort_atDispatch (s : State) (k : Port) (t : Nat) (f : TenantPort → TenantPort) :
    (atDispatch s k t).onPort k f = withPort s k t (f (collected (s.tp.get k))) := by
  rw [State.onPort, collected_of_atDispatch]
  simp only [atDispatch, withPort, perPort_set_set]

theorem eq_zero_or_one_of_byte (b : Byte) (h : ¬1 < b.toNat) : b = 0 ∨ b = 1 :=
  (Nat.le_one_iff_eq_zero_or_eq_one.1 (Nat.not_lt.1 h)).imp BitVec.eq_of_toNat_eq BitVec.eq_of_toNat_eq

/-- The mode of an attention-mode byte, written and read (section 11.2). -/
theorem attentionModeOf_valid (m : Byte) (h : ¬1 < m.toNat) :
    attentionModeOf m = some (if m = 1 then .pulse else .level) ∧ u1 (AttentionMode.code (if m = 1 then .pulse else .level)) = [m] := by
  obtain rfl | rfl := eq_zero_or_one_of_byte m h
  · exact ⟨rfl, u1_of_lt 0 (by decide)⟩
  · exact ⟨rfl, u1_of_lt 1 (by decide)⟩

/-- The polarity of an attention-polarity byte, written and read (section 11.2). -/
theorem attentionPolarityOf_valid (q : Byte) (h : ¬1 < q.toNat) :
    attentionPolarityOf q = some (if q = 1 then .activeHigh else .activeLow) ∧
      u1 (AttentionPolarity.code (if q = 1 then .activeHigh else .activeLow)) = [q] := by
  obtain rfl | rfl := eq_zero_or_one_of_byte q h
  · exact ⟨rfl, u1_of_lt 0 (by decide)⟩
  · exact ⟨rfl, u1_of_lt 1 (by decide)⟩

/-- A mode or a polarity that names none of its values is MALFORMED (R180). -/
theorem answerPortSet_malformed (k : Port) (m q limit : Byte) (s : State) (h : 1 < m.toNat ∨ 1 < q.toNat) :
    answerPortSet k m q limit s = s.respond k 0x04 [2] := by
  have hmalformed : resultOnly .malformed = [2] := u1_of_lt 2 (by decide)
  unfold answerPortSet
  rw [hmalformed]
  rcases h with h | h
  · have hmode : attentionModeOf m = none := by
      rw [attentionModeOf, if_neg (by omega), if_neg (by omega)]
    rw [hmode]
  · have hpolarity : attentionPolarityOf q = none := by
      rw [attentionPolarityOf, if_neg (by omega), if_neg (by omega)]
    rw [hpolarity]
    split
    · contradiction
    · rfl

theorem faultLimitOf_lt (n : Nat) : faultLimitOf n < 256 := by
  unfold faultLimitOf
  split_ifs <;> decide

/-- The attention settings applied, and the settings in force in the response (R180). -/
theorem answerPortSet_applied (k : Port) (m q limit : Byte) (s : State) (hm : ¬1 < m.toNat) (hq : ¬1 < q.toNat) :
    answerPortSet k m q limit s =
      (s.onPort k (fun p => p.attend (if m = 1 then .pulse else .level) (if q = 1 then .activeHigh else .activeLow)
        (faultLimitOf limit.toNat))).respond k 0x04
        [if faultLimitOf limit.toNat = limit.toNat then 0 else 1, m, q, byte (faultLimitOf limit.toNat)] := by
  obtain ⟨hmode, hmodeByte⟩ := attentionModeOf_valid m hm
  obtain ⟨hpolarity, hpolarityByte⟩ := attentionPolarityOf_valid q hq
  have hresult : u1 (ResultCode.code (if faultLimitOf limit.toNat = limit.toNat then .ok else .clamped)) =
      [if faultLimitOf limit.toNat = limit.toNat then 0 else 1] := by
    split
    · exact u1_of_lt 0 (by decide)
    · exact u1_of_lt 1 (by decide)
  unfold answerPortSet
  rw [hmode, hpolarity]
  dsimp only
  rw [hmodeByte, hpolarityByte, hresult, u1_of_lt _ (faultLimitOf_lt _)]
  rfl

/-! ## Saves requested (R175, R189, R190) -/

/-- A save request that finds the store IDLE on a ready port: the reservation, and the save with the area's content as it stands. -/
theorem requestSave_idle (s : State) (k : Port) (t kind : Nat) (a : Area) (hready : Ready s k t) (hidle : s.stc.store = .idle) :
    (atDispatch s k t).requestSave k kind a =
      (withPort s k t { collected (s.tp.get k) with reservation := true }).startSave a (.requested k) := by
  have hreserved : (collected (s.tp.get k)).reserve = { collected (s.tp.get k) with reservation := true } :=
    if_pos (collected_places _ hready.2.2)
  have hstore : (atDispatch s k t).stc.store = .idle := hidle
  unfold State.requestSave
  rw [hstore, onPort_atDispatch, hreserved]

/-- A save request that finds a save in flight is answered BUSY. -/
theorem requestSave_busy (s : State) (k : Port) (t kind : Nat) (a : Area) (v : Save) (hready : Ready s k t) (hsaving : s.stc.store = .saving v) :
    (atDispatch s k t).requestSave k kind a = answered s k t kind [4] := by
  have hstore : (atDispatch s k t).stc.store = .saving v := hsaving
  have hbusy : resultOnly .busy = [4] := u1_of_lt 4 (by decide)
  unfold State.requestSave
  rw [hstore]
  dsimp only
  rw [hbusy, respond_atDispatch s k t kind _ hready]

end Sys2Proof.Machine
end

section
/-! SUPPORT. What the end of a save leaves: the save's record, the erases owed, the pending emergency save, and the response or the STORE
notice that tells it (R175, R176, R189, R190, R192, R194). -/

namespace Sys2Proof.Machine

open Sys2Proof Sys2Proof.Safety

/-! ## The two commands that end a save (R189) -/

theorem exec_saveEnd_saving {t : Nat} {v : Save} {s : State} (clean : Nat) (h : Timely s t) (hsaving : s.stc.store = .saving v) :
    exec (.saveEnd t clean) s = .next ((atPhase s t).endSave v (decide (v.ops.length ≤ clean)) clean (clean + 1)) := by
  obtain ⟨hrunning, hpassed, hlength⟩ := h
  rw [exec_saveEnd s hrunning, hsaving, advanceTo_timely s t hpassed hlength]
  rfl

theorem exec_saveTimeout_saving {t : Nat} {v : Save} {s : State} (progress : SaveProgress) (h : Timely s t)
    (hsaving : s.stc.store = .saving v) : ∃ done begun, exec (.saveTimeout t progress) s = .next ((atPhase s t).endSave v false done begun) := by
  obtain ⟨hrunning, hpassed, hlength⟩ := h
  rw [exec_saveTimeout s hrunning, hsaving, advanceTo_timely s t hpassed hlength]
  exact ⟨_, _, rfl⟩

/-! ## The erases owed (R189) -/

/-- A save that carried out every owed erase and ended OK leaves none owed. -/
theorem owe_done (x : Stc) (v : Save) (done : Nat) (h : x.owed.length ≤ done) :
    (x.owe v true done).owedSite = false ∧ (x.owe v true done).owedModel = false := by
  simp [Stc.owe, List.drop_eq_nil_of_le h]

/-- A failed save owes an erase for its own area. -/
theorem owe_failed (x : Stc) (v : Save) (done : Nat) : match v.area with
    | .site => (x.owe v false done).owedSite = true
    | .model => (x.owe v false done).owedModel = true := by
  cases harea : v.area <;> simp [Stc.owe, harea]

/-! ## What the end records -/

section

variable (s : State) (v : Save) (ok : Bool) (done begun : Nat)

/-- The telling changes the queues alone. -/
theorem tellSave_keeps : s.tellSave v ok = { s with tp := (s.tellSave v ok).tp } := by
  unfold State.tellSave
  split <;> rfl

theorem startPending_tp : s.startPending.tp = s.tp := by
  unfold State.startPending
  split <;> rfl

/-- The end of a save tells it of the part as recorded. -/
theorem endSave_tp : (s.endSave v ok done begun).tp = ((s.recordSave v ok done begun).tellSave v ok).tp := startPending_tp _

/-- The end of a save records it in the store, the device and the site-default flag, and starts a pending emergency save. -/
theorem endSave_spec : ∃ x : Stc,
    s.endSave v ok done begun =
      { s with
        tp := (s.endSave v ok done begun).tp
        flash := s.flash.after v done begun
        sst := { s.sst with siteDefault := s.sst.siteDefault && !(ok && v.area == .site) }
        stc := x } ∧
    x.lastSave = some ⟨v.area, v.origin.kind, ok, v.time⟩ ∧ x.owedSite = (s.stc.owe v ok done).owedSite ∧
    x.owedModel = (s.stc.owe v ok done).owedModel ∧ x.pendingEmergency = false ∧
    if s.stc.pendingEmergency then ∃ z : Save, x.store = .saving z ∧ z.area = .model ∧ z.origin = .emergency else x.store = .idle := by
  rw [endSave_tp]
  unfold State.endSave
  rw [tellSave_keeps]
  unfold State.startPending
  cases hpending : s.stc.pendingEmergency with
  | true =>
    have hrecorded : (s.recordSave v ok done begun).stc.pendingEmergency = true := hpending
    refine ⟨_, if_pos hrecorded, rfl, rfl, rfl, rfl, ?_⟩
    exact ⟨_, rfl, rfl, rfl⟩
  | false =>
    have hrecorded : (s.recordSave v ok done begun).stc.pendingEmergency = false := hpending
    refine ⟨(s.recordSave v ok done begun).stc, if_neg (by rw [hrecorded]; decide), rfl, rfl, rfl, hrecorded, ?_⟩
    exact if_neg (by rw [show (s.stc.owe v ok done).pendingEmergency = false from hpending]; decide)

/-- A failed save leaves the site-default flag, and owes an erase for its area (R189). -/
theorem endSave_failed : (s.endSave v false done begun).sst = s.sst ∧ match v.area with
    | .site => (s.endSave v false done begun).stc.owedSite = true
    | .model => (s.endSave v false done begun).stc.owedModel = true := by
  obtain ⟨x, hend, -, hsite, hmodel, -⟩ := endSave_spec s v false done begun
  have howes := owe_failed s.stc v done
  rw [hend]
  refine ⟨by simp, ?_⟩
  cases harea : v.area with
  | site =>
    rw [harea] at howes
    exact hsite.trans howes
  | model =>
    rw [harea] at howes
    exact hmodel.trans howes

/-- A save whose operations are all done leaves its image in its area, with no erase owed; one of the SITE area clears the site-default flag. -/
theorem endSave_ok (howed : s.stc.owed.length ≤ v.ops.length) (hall : v.ops.length ≤ done) :
    let u := s.endSave v true done begun
    match v.area with
    | .site => u.flash.site = some v.image ∧ u.sst = { s.sst with siteDefault := false } ∧ u.stc.owedSite = false
    | .model => u.flash.model = some v.image ∧ u.sst = s.sst ∧ u.stc.owedModel = false := by
  obtain ⟨x, hend, -, hsite, hmodel, -⟩ := endSave_spec s v true done begun
  obtain ⟨hnoSite, hnoModel⟩ := owe_done s.stc v done (howed.trans hall)
  have himage := (imageIn_after s.flash v done begun v.area).trans (if_pos ⟨rfl, hall⟩)
  dsimp only
  rw [hend]
  cases harea : v.area with
  | site =>
    rw [harea] at himage
    exact ⟨himage, by simp, hsite.trans hnoSite⟩
  | model =>
    rw [harea] at himage
    exact ⟨himage, by simp [show (Area.model == Area.site) = false from rfl], hmodel.trans hnoModel⟩

/-! ## What the end tells (R175, R176, R190, R194) -/

theorem saveTimeField_eq (x : SaveTime) : saveTimeField x = List.append (beBytes 6 x.sec.toNat) [if x.traceable then 1 else 0] := by
  have htraceable : u1 (onOff x.traceable) = [if x.traceable then 1 else 0] := by
    cases x.traceable
    · exact u1_of_lt 0 (by decide)
    · exact u1_of_lt 1 (by decide)
  rw [saveTimeField, htraceable, secField]

theorem resultOnly_saveResult : resultOnly (saveResult ok) = [if ok then 0 else 13] := by
  cases ok
  · exact u1_of_lt 13 (by decide)
  · exact u1_of_lt 0 (by decide)

/-- A response that finds room joins the tail, with the attention pulse it may start. -/
theorem join_response (p : TenantPort) (phase kind : Nat) (x : List Byte) (h : p.places < 8) :
    p.join phase { notice := none, kind := byte kind, payload := x } = withResponse p phase kind x := by
  rw [join_of_room _ _ _ h]
  simp [TenantPort.append, withResponse, List.isEmpty_iff]

/-- The deferred response of a REQUESTED save leaves the other ports, and takes the reservation's place in its own. -/
theorem endSave_responds (k : Port) (horigin : v.origin = .requested k) :
    (∀ j, j ≠ k → (s.endSave v ok done begun).tp.get j = s.tp.get j) ∧
    ((s.tp.get k).reservation = true → (s.tp.get k).places ≤ 8 →
      (s.endSave v ok done begun).tp.get k = withResponse { s.tp.get k with reservation := false } s.tsu.phase v.area.requestKind
        ((if ok then 0 else 13) :: List.append (beBytes 6 v.time.sec.toNat) [if v.time.traceable then 1 else 0])) := by
  rw [endSave_tp]
  unfold State.tellSave
  rw [horigin]
  refine ⟨fun j hj => perPort_get_set_other _ _ _ _ hj, fun hreserved hplaces => ?_⟩
  have hroom : ({ s.tp.get k with reservation := false } : TenantPort).places < 8 := by
    rw [TenantPort.places, hreserved] at hplaces
    exact hplaces
  rw [resultOnly_saveResult, saveTimeField_eq]
  exact (perPort_get_set_same _ _ _).trans (join_response _ _ _ _ hroom)

/-- The payload of the STORE notice of a save that was not requested (R194; log entry 34). -/
theorem storeNotice_recorded (hsaving : s.stc.store = .saving v) (horigin : v.origin.kind ≠ .requested) :
    (s.recordSave v ok done begun).storeNotice v ok = List.flatten
      [beBytes 6 s.tsu.seconds.toNat, uField 6 s.tsu.phase,
       [match v.area with
         | .site => 0
         | .model => 1,
        if v.origin = .auto then 1 else 2, if ok then 0 else 13],
       List.append (beBytes 6 v.time.sec.toNat) [if v.time.traceable then 1 else 0],
       [if s.stc.pendingEmergency then 1 else 0, if s.stc.pendingEmergency then 2 else 1]] := by
  have harea : u1 v.area.code = [match v.area with
      | .site => 0
      | .model => 1] := by
    cases v.area
    · exact u1_of_lt 0 (by decide)
    · exact u1_of_lt 1 (by decide)
  have hkind : u1 v.origin.kind.code = [if v.origin = .auto then 1 else 2] := by
    cases h : v.origin with
    | requested k => exact absurd (congrArg SaveOrigin.kind h) horigin
    | auto => exact u1_of_lt 1 (by decide)
    | emergency => exact u1_of_lt 2 (by decide)
  have hpending : u1 (flagsByte [s.stc.pendingEmergency]) = [if s.stc.pendingEmergency then 1 else 0] := by
    cases s.stc.pendingEmergency
    · exact u1_of_lt 0 (by decide)
    · exact u1_of_lt 1 (by decide)
  have hstore : u1 (s.recordSave v ok done begun).stc.store.code = [if s.stc.pendingEmergency then 2 else 1] := by
    show u1 (StoreState.code (if s.stc.pendingEmergency then s.stc.store else .idle)) = _
    rw [hsaving]
    cases s.stc.pendingEmergency
    · exact u1_of_lt 1 (by decide)
    · exact u1_of_lt 2 (by decide)
  have hresult : u1 (saveResult ok).code = [if ok then 0 else 13] := resultOnly_saveResult ok
  show List.flatten [timeField s.now, u1 v.area.code, u1 v.origin.kind.code, u1 (saveResult ok).code, saveTimeField v.time,
    u1 (flagsByte [s.stc.pendingEmergency]), u1 (s.recordSave v ok done begun).stc.store.code] = _
  rw [harea, hkind, hresult, hpending, hstore, saveTimeField_eq]
  simp [timeField, secField, State.now]

/-- A save that was not requested places a STORE notice where a queue holds one already or has room. -/
theorem endSave_notices (hsaving : s.stc.store = .saving v) (horigin : v.origin.kind ≠ .requested) (j : Port)
    (hroom : 0 < noticeCount (s.tp.get j).queue .store ∨ (s.tp.get j).places < 8) :
    ∃ f ∈ ((s.endSave v ok done begun).tp.get j).queue, f.notice = some .store ∧ f.payload = List.flatten
      [beBytes 6 s.tsu.seconds.toNat, uField 6 s.tsu.phase,
       [match v.area with
         | .site => 0
         | .model => 1,
        if v.origin = .auto then 1 else 2, if ok then 0 else 13],
       List.append (beBytes 6 v.time.sec.toNat) [if v.time.traceable then 1 else 0],
       [if s.stc.pendingEmergency then 1 else 0, if s.stc.pendingEmergency then 2 else 1]] := by
  have htold : (s.recordSave v ok done begun).tellSave v ok =
      (s.recordSave v ok done begun).noticeAll .store ((s.recordSave v ok done begun).storeNotice v ok) := by
    unfold State.tellSave
    split
    · next k hk => exact absurd (congrArg SaveOrigin.kind hk) horigin
    · rfl
  rw [endSave_tp, htold, State.noticeAll, perPort_get_map, ← storeNotice_recorded s v ok done begun hsaving horigin]
  exact place_mem _ _ _ _ hroom

end

end Sys2Proof.Machine
end

section
/-! The statements about the tenant ports and the store's saves, settled. -/

namespace Sys2Proof.TenantPorts

open Sys2Proof Sys2Proof.Machine Sys2Proof.Safety

/-- Settles O47: on an empty queue of commands the part idles, and every command keeps the outbound queues sound. -/
theorem queuesStaySound : Obligations.QueuesStaySound := by
  intro s u h hstep
  unfold step at hstep
  split at hstep
  · cases hstep
    exact h
  · next rest _ => exact exec_queuesSound (s := { s with pending := rest }) h hstep

/-- Settles O42: the first edge takes the head of the queue, and the status byte once out clears the dropped flag. -/
theorem transactionBegins : Obligations.TransactionBegins := by
  intro k s hrunning
  refine ⟨fun hnone => ?_, fun x htransmit hout => ?_⟩
  · rw [exec_transactionStart s hrunning, State.onPort, begin_eq _ hnone, statusByte_eq]
  · rw [exec_statusByteClockedOut s hrunning, State.onPort, statusOut_eq _ x htransmit hout]

/-- Settles O43: the bytes are judged bad, and the port ends the transaction and counts the bad frame. -/
theorem badFrameCounted : Obligations.BadFrameCounted := by
  intro k t bytes x s htimely htransmit len hbad
  have hended := (congrArg TenantPort.badFrame (finish_eq _ x bytes.length htransmit)).trans (badFrame_eq _)
  rw [exec_frameReceived_timely bytes htimely (by rw [htransmit]; rfl), judgeFrame_bad bytes hbad]
  show Host.Outcome.next (((atPhase s t).onPort k _).onPort k _) = _
  rw [onPort_onPort]
  exact congrArg (fun p => Host.Outcome.next (withPort s k t p)) hended

/-- Settles O44: the instant lies in the interval, and the pulse ends there. -/
theorem attentionPulseEnds : Obligations.AttentionPulseEnds := by
  intro k e s htimely hpulse
  obtain ⟨hrunning, hpassed, hlength⟩ := htimely
  rw [exec_attentionPulseEnd s hrunning, hpulse]
  dsimp only
  rw [if_pos hlength, advanceTo_timely s e hpassed hlength]
  rfl

/-- Settles O45: the frame is good with the request's kind and payload, which spell the request. -/
theorem requestFramesReadBack : Obligations.RequestFramesReadBack :=
  fun q fill => ⟨judgeFrame_frame q fill, parse_payload q⟩

/-- Settles O46: the three events collect the outbound frame and dispatch the request as the command does. -/
theorem requestIsTransaction : Obligations.RequestIsTransaction := by
  intro q k t fill s hrunning hnone hsent
  have hbegun : ((s.advanceTo t).tp.get k).transmit = none := hnone
  have hdelivered : (((s.onPort k TenantPort.begin).onPort k TenantPort.statusOut).advanceTo t).onPort k
        (fun p => p.finish (List.append q.frame fill).length) =
      (s.advanceTo t).onPort k (fun p => p.begin.statusOut.delivered) := by
    show (((s.advanceTo t).onPort k _).onPort k _).onPort k _ = _
    rw [onPort_onPort, onPort_onPort]
    simp only [State.onPort, finish_delivered _ _ hbegun hsent]
  have htransmit : ((((s.onPort k TenantPort.begin).onPort k TenantPort.statusOut).advanceTo t).tp.get k).transmit.isSome = true := by
    rw [State.advanceTo_tp, onPort_onPort, port_onPort, begin_eq _ hnone, statusOut_eq _ _ rfl rfl]
    rfl
  refine ⟨_, _, s.request k t q, exec_transactionStart s hrunning k,
    exec_statusByteClockedOut (s.onPort k TenantPort.begin) hrunning k, ?_, exec_command s hrunning k t q⟩
  rw [exec_frameReceived ((s.onPort k TenantPort.begin).onPort k TenantPort.statusOut) hrunning, if_pos htransmit, hdelivered, judgeFrame_frame]
  simp only [State.receive, State.dispatchFrame, parse_payload]
  rfl

/-- Settles O48: the three requests meet their owner in every store state. -/
theorem pollStatusIdentify : Obligations.PollStatusIdentify := by
  intro k t s hready
  refine ⟨exec_command_always s k t .poll hready (.inl rfl), ?_, s.stc.identityRecord, ?_, identityRecord_spec s.stc⟩
  · exact (exec_command_always s k t .status hready (.inr rfl)).trans (congrArg _ (respond_atDispatch s k t _ _ hready))
  · exact (exec_command_always s k t .identify hready (.inr rfl)).trans (congrArg _ (respond_atDispatch s k t _ _ hready))

/-- Settles O50: no request but the three named is met in every store state. -/
theorem busyWhileLoading : Obligations.BusyWhileLoading := by
  intro q k t s hready hloading hpoll hstatus hidentify
  refine exec_command_busy s k t q hready hloading hpoll ?_
  cases q with
  | status => exact absurd rfl hstatus
  | identify => exact absurd rfl hidentify
  | _ => rfl

/-- Settles O51: PORT SET checks its choices and applies them, and PORT RESET clears the port and flushes its window. -/
theorem portRequests : Obligations.PortRequests := by
  intro k t m q limit s hready hloaded p n mode polarity anew cleared w flushed
  have hroom : anew.places < 8 := collected_places _ hready.2.2
  refine ⟨?_, ?_⟩
  · refine (exec_command_answered s k t (.portSet m q limit) hready hloaded).trans ?_
    show Host.Outcome.next (answerPortSet k m q limit (atDispatch s k t)) = _
    split
    · next hmalformed => rw [answerPortSet_malformed k m q limit _ hmalformed, respond_atDispatch s k t _ _ hready]
    · next hvalid =>
      obtain ⟨hm, hq⟩ := not_or.1 hvalid
      rw [answerPortSet_applied k m q limit _ hm hq, onPort_atDispatch]
      exact congrArg _ (respond_withPort s k t 0x04 anew _ hroom)
  · refine (exec_command_answered s k t .portReset hready hloaded).trans ?_
    have hanswer : answerPortReset k (atDispatch s k t) = ((withPort s k t p.clear).respond k 0x05 (resultOnly .ok)).flushWindow k := by
      rw [← onPort_atDispatch]
      rfl
    have hclear : p.clear = { TenantPort.reset with reservation := p.reservation } := by
      rw [TenantPort.clear, show p.transmit = none from hready.2.1]
      rfl
    have hresponse : withResponse p.clear t 0x05 (resultOnly .ok) = cleared := by
      rw [hclear, resultOnly, u1_of_lt _ (by decide)]
      rfl
    show Host.Outcome.next (answerPortReset k (atDispatch s k t)) = _
    rw [hanswer, respond_withPort s k t 0x05 _ _ ((clear_places_le p).trans_lt (by decide)), hresponse]
    rfl

/-- Settles O58: an IDLE store starts the save with its reservation, and one that is SAVING refuses it. -/
theorem saveRequests : Obligations.SaveRequests := by
  intro k t s hready
  refine ⟨fun hidle => ?_, fun v hsaving => ?_⟩
  · have hloaded : s.stc.store.isLoading = false := by rw [hidle]; rfl
    exact ⟨(exec_command_answered s k t .siteSave hready hloaded).trans (congrArg _ (requestSave_idle s k t 0x13 .site hready hidle)),
      (exec_command_answered s k t .modelSave hready hloaded).trans (congrArg _ (requestSave_idle s k t 0x14 .model hready hidle))⟩
  · have hloaded : s.stc.store.isLoading = false := by rw [hsaving]; rfl
    exact ⟨(exec_command_answered s k t .siteSave hready hloaded).trans (congrArg _ (requestSave_busy s k t 0x13 .site v hready hsaving)),
      (exec_command_answered s k t .modelSave hready hloaded).trans (congrArg _ (requestSave_busy s k t 0x14 .model v hready hsaving))⟩

/-- Settles O60: the last operation's end and the timeout each end the save with `State.endSave`, told as its origin asks. -/
theorem saveEnds : Obligations.SaveEnds := by
  intro t clean progress v s htimely hsaving howed
  obtain ⟨done, begun, htimeout⟩ := exec_saveTimeout_saving progress htimely hsaving
  obtain ⟨x, hu, hsaved, -⟩ := endSave_spec (atPhase s t) v (decide (v.ops.length ≤ clean)) clean (clean + 1)
  obtain ⟨x', hw, hfailed, -⟩ := endSave_spec (atPhase s t) v false done begun
  obtain ⟨hsst, howes⟩ := endSave_failed (atPhase s t) v done begun
  refine ⟨_, _, exec_saveEnd_saving clean htimely hsaving, htimeout, ?_, ?_, fun hall => ?_, fun hsome => ?_, hsst, howes, ?_⟩
  · rw [hu]
    exact hsaved
  · rw [hw]
    exact hfailed
  · rw [decide_eq_true hall]
    exact endSave_ok (atPhase s t) v clean (clean + 1) howed hall
  · rw [decide_eq_false hsome.not_ge]
    exact endSave_failed (atPhase s t) v clean (clean + 1)
  · intro y ok hend
    have hended : ∃ done begun, y = (atPhase s t).endSave v ok done begun := by
      obtain ⟨rfl, rfl⟩ | ⟨rfl, rfl⟩ := hend
      · exact ⟨_, _, rfl⟩
      · exact ⟨_, _, rfl⟩
    clear hend
    obtain ⟨done, begun, rfl⟩ := hended
    obtain ⟨z, hy, -, -, -, hpending, hstore⟩ := endSave_spec (atPhase s t) v ok done begun
    refine ⟨by rw [hy]; exact hpending, by rw [hy]; exact hstore, ?told, ?frame⟩
    case frame =>
      rw [hy]
      exact ⟨rfl, rfl, rfl, rfl, rfl, rfl, rfl, rfl, rfl⟩
    case told =>
      intro result saveTime
      have htold := endSave_notices (atPhase s t) v ok done begun hsaving
      cases horigin : v.origin with
      | requested k =>
        obtain ⟨hother, hown⟩ := endSave_responds (atPhase s t) v ok done begun k horigin
        refine ⟨fun j _ hj => hother j hj, fun hreserved hplaces => ?_⟩
        refine (hown hreserved hplaces).trans ?_
        cases v.area with
        | site => rfl
        | model => rfl
      | auto =>
        rw [horigin] at htold
        exact fun j _ => htold (by decide) j
      | emergency =>
        rw [horigin] at htold
        exact fun j _ => htold (by decide) j

end Sys2Proof.TenantPorts
end

section
/-! SUPPORT. The site settings record within its ranges, and its image in the SITE area: a value put in range keeps a record in range, and the 78
entries of the content give back the record they spell (R184, R186, R188, section 11.8). -/

namespace Sys2Proof.Machine

open Sys2Proof Sys2Proof.Safety

/-! ## Records in range (R184, R188) -/

theorem inRange_iff (r : SiteRecord) : r.inRange = true ↔ r.values.length = 78 ∧ ∀ x : Setting, x.admits (r.val x) = true := by
  simp [SiteRecord.inRange, mem_settings]

theorem clamped_admits (x : Setting) (v : Int) : x.admits (x.clamped v) = true :=
  (admits_iff x _).2 (clamp_mem _ _ v (range_ordered x))

theorem clamped_of_admits {x : Setting} {v : Int} (h : x.admits v = true) : x.clamped v = v :=
  have ⟨hlow, hhigh⟩ := (admits_iff x v).1 h
  clamp_of_mem _ _ _ hlow hhigh

theorem put_length (r : SiteRecord) (x : Setting) (v : Int) : (r.put x v).values.length = r.values.length := List.length_set

/-- A value in its range, put in a record in range, leaves it in range. -/
theorem put_inRange {r : SiteRecord} {x : Setting} {v : Int} (h : r.inRange = true) (hv : x.admits v = true) : (r.put x v).inRange = true := by
  obtain ⟨hlength, hadmits⟩ := (inRange_iff r).1 h
  refine (inRange_iff _).2 ⟨(put_length r x v).trans hlength, fun y => ?_⟩
  by_cases hy : y = x
  · rw [hy, val_put_same r x v hlength]
    exact hv
  · rw [val_put_other r x y v hy]
    exact hadmits y

theorem factory_inRange : SiteRecord.factory.inRange = true := by decide

/-- An entry read from the SITE area is clamped, so it leaves a record in range (R188). -/
theorem loadEntry_inRange {r : SiteRecord} (h : r.inRange = true) (entry : List Byte) : (loadEntry r entry).inRange = true := by
  unfold loadEntry
  split
  · exact h
  · exact put_inRange h (clamped_admits _ _)

theorem foldl_loadEntry_inRange (entries : List (List Byte)) {r : SiteRecord} (h : r.inRange = true) :
    (entries.foldl loadEntry r).inRange = true := by
  induction entries generalizing r with
  | nil => exact h
  | cons entry entries ih => exact ih (loadEntry_inRange h entry)

/-- Whatever content the SITE area holds, the record it gives is in range (R188, R193). -/
theorem siteOf_inRange (content : List Byte) : (siteOf content).inRange = true := foldl_loadEntry_inRange _ factory_inRange

/-! ## The record by its values -/

theorem settings_length : Setting.all.length = 78 := by decide

theorem settings_nodup : Setting.all.Nodup := by decide

/-- A setting that stands at a place of the list has that place as its slot. -/
theorem slot_getElem (i : Nat) (h : i < Setting.all.length) : (Setting.all[i]).slot = i :=
  (settings_nodup.getElem_inj_iff).1 (getElem_slot _)

/-- Two records of 78 values that agree on every setting are the same (R184). -/
theorem siteRecord_ext {r q : SiteRecord} (hr : r.values.length = 78) (hq : q.values.length = 78) (h : ∀ x, r.val x = q.val x) : r = q := by
  obtain ⟨rs⟩ := r
  obtain ⟨qs⟩ := q
  refine congrArg SiteRecord.mk (List.ext_getElem (hr.trans hq.symm) fun i hi hi' => ?_)
  have hplace : i < Setting.all.length := settings_length ▸ hi.trans_eq hr
  have hval := h Setting.all[i]
  rw [SiteRecord.val, SiteRecord.val, slot_getElem i hplace] at hval
  rwa [List.getD_eq_getElem _ _ hi, List.getD_eq_getElem _ _ hi'] at hval

theorem foldl_put_length (r : SiteRecord) (xs : List Setting) (q : SiteRecord) :
    (xs.foldl (fun q x => q.put x (r.val x)) q).values.length = q.values.length := by
  induction xs generalizing q with
  | nil => rfl
  | cons x xs ih => exact (ih _).trans (put_length _ _ _)

/-- Values of a record put in another one after the other stand there at the end. -/
theorem foldl_put_val (r : SiteRecord) (xs : List Setting) (q : SiteRecord) (hq : q.values.length = 78) (y : Setting)
    (hy : y ∈ xs ∨ q.val y = r.val y) : (xs.foldl (fun q x => q.put x (r.val x)) q).val y = r.val y := by
  induction xs generalizing q with
  | nil => exact hy.resolve_left List.not_mem_nil
  | cons x xs ih =>
    refine ih _ ((put_length _ _ _).trans hq) ?_
    by_cases hyx : y = x
    · exact .inr (by rw [hyx, val_put_same q x _ hq])
    · rw [val_put_other q x y _ hyx]
      exact hy.imp_left fun hmem => (List.mem_cons.1 hmem).resolve_left hyx

/-- All values of a record put in another of its size give the record. -/
theorem foldl_put_all (r q : SiteRecord) (hr : r.values.length = 78) (hq : q.values.length = 78) :
    Setting.all.foldl (fun q x => q.put x (r.val x)) q = r :=
  siteRecord_ext ((foldl_put_length r _ q).trans hq) hr fun y => foldl_put_val r _ q hq y (.inl (mem_settings y))

/-! ## The entries of the SITE content (section 11.8) -/

/-- The entry of one setting: its identifier, its number within the field and its value (section 11.8). -/
def siteEntry (x : Setting) (v : Int) : List Byte := u1 x.ident ++ (u1 x.instanceNumber ++ sField 6 v)

theorem siteEntry_length (x : Setting) (v : Int) : (siteEntry x v).length = 8 := by simp [siteEntry]

theorem siteContent_eq (r : SiteRecord) : siteContent r = (Setting.all.map fun x => siteEntry x (r.val x)).flatten := by
  simp [siteContent, siteEntry]

theorem siteContent_length (r : SiteRecord) : (siteContent r).length = 624 := by
  rw [siteContent_eq, flatten_length 8 _ (by simp [siteEntry_length]), List.length_map, settings_length]

/-- Each setting is the one that its identifier and its number name (section 11.7). -/
theorem named_self (x : Setting) : Setting.named x.ident x.instanceNumber = some x := by
  have hall : ∀ x ∈ Setting.all, Setting.named x.ident x.instanceNumber = some x := by decide
  exact hall x (mem_settings x)

/-- Identifiers and numbers fit a byte, and every range fits six bytes, signed (section 11.8). -/
theorem entry_fits (x : Setting) : x.ident < 256 ∧ x.instanceNumber < 256 ∧ -140737488355328 ≤ x.range.1 ∧ x.range.2 < 140737488355328 := by
  have hall : ∀ x ∈ Setting.all, x.ident < 256 ∧ x.instanceNumber < 256 ∧ -140737488355328 ≤ x.range.1 ∧ x.range.2 < 140737488355328 := by
    decide
  exact hall x (mem_settings x)

/-- An entry with a value in its range puts that value. -/
theorem loadEntry_siteEntry (q : SiteRecord) {x : Setting} {v : Int} (h : x.admits v = true) : loadEntry q (siteEntry x v) = q.put x v := by
  obtain ⟨hident, hnumber, hleast, hgreatest⟩ := entry_fits x
  obtain ⟨hlow, hhigh⟩ := (admits_iff x v).1 h
  have hvalue : intOf (sField 6 v) = v := intOf_sField 6 v (by norm_num; omega) (by norm_num; omega)
  unfold loadEntry siteEntry
  simp only [slice_skip, slice_here, slice_all, u1_length, sField_length, Nat.reduceLeDiff, Nat.reduceSub, Nat.le_refl, natOf_u1 _ hident, natOf_u1 _ hnumber,
    named_self, hvalue, clamped_of_admits h]

/-- What the SITE content of a record in range gives is the record (R188, R193). -/
theorem siteOf_siteContent {r : SiteRecord} (h : r.inRange = true) : siteOf (siteContent r) = r := by
  obtain ⟨hlength, hadmits⟩ := (inRange_iff r).1 h
  have hrecords : recordsOf 78 8 (siteContent r) = Setting.all.map fun x => siteEntry x (r.val x) := by
    have hread := recordsOf_flatten 8 (Setting.all.map fun x => siteEntry x (r.val x)) [] (by simp [siteEntry_length])
    rwa [List.length_map, settings_length, List.append_nil, ← siteContent_eq] at hread
  have hput : ∀ q x, loadEntry q (siteEntry x (r.val x)) = q.put x (r.val x) := fun q x => loadEntry_siteEntry q (hadmits x)
  rw [siteOf, hrecords, List.foldl_map]
  simp only [hput]
  exact foldl_put_all r .factory hlength (by decide)

end Sys2Proof.Machine
end

section
/-! SUPPORT. What every command but a hardware reset can do to the site settings, said once: it keeps the record and the change count, it puts one
value in range while the part is not frozen, or it ends the read of the SITE area (R184, R186, R187, R193). -/

namespace Sys2Proof.Machine

open Sys2Proof Sys2Proof.Safety

/-- What a command can make of the settings and of the store state: no command begins a read of the SITE area, and none clears the frozen flag
(R187, R193). -/
inductive SettingsChange (x : Sst) (store : StoreState) (y : Sst) (store' : StoreState) : Prop
  | kept (hrecord : y.record = x.record) (hcount : y.changeCount = x.changeCount) (hfrozen : x.frozen = true → y.frozen = true)
      (hstore : store ≠ .loadingSite → store' ≠ .loadingSite)
  | put (z : Setting) (v : Int) (hthawed : x.frozen = false) (hadmits : z.admits v = true) (hrecord : y.record = x.record.put z v)
  | loaded (content : List Byte) (hloading : store = .loadingSite) (hrecord : y.record = siteOf content)

/-- The settings and the store state of `u` come of those of `s` in one of the ways of `SettingsChange`. -/
abbrev SettingsChanges (s u : State) : Prop := SettingsChange s.sst s.stc.store u.sst u.stc.store

theorem SettingsChange.unchanged (x : Sst) (store : StoreState) : SettingsChange x store x store := .kept rfl rfl id id

/-- A command that leaves the settings and begins no read of the SITE area keeps them. -/
theorem SettingsChange.of_sst {s u : State} (hsst : u.sst = s.sst) (hstore : s.stc.store ≠ .loadingSite → u.stc.store ≠ .loadingSite) :
    SettingsChanges s u := .kept (by rw [hsst]) (by rw [hsst]) (by rw [hsst]; exact id) hstore

theorem RquFrame.settingsChanges {s u : State} (g : RquFrame s u) : SettingsChanges s u := .of_sst g.sst (by rw [g.stc]; exact id)

/-! ## Requests (R186, R187) -/

/-- A SITE SET applies a value only while the part is not frozen, and the value applied is in range (R186). -/
theorem check_eq_applied {x : Sst} {ident inst : Nat} {v : Int} {z : Setting} {y : Int} {r : ResultCode}
    (h : x.check ident inst v = .applied z y r) : x.frozen = false ∧ z.admits y = true := by
  unfold Sst.check at h
  split at h
  · cases h
  · split at h
    · cases h
    · split at h
      · cases h
      · next hthawed =>
        refine ⟨Bool.eq_false_iff.2 hthawed, ?_⟩
        split at h
        · next hadmits =>
          cases h
          exact hadmits
        · cases h
          exact clamped_admits _ _

theorem answerSiteSet_settingsChanges (s : State) (k : Port) (i n : Byte) (v : BitVec 48) : SettingsChanges s (answerSiteSet k i n v s) := by
  unfold answerSiteSet
  split
  · exact .unchanged _ _
  · next x y _ hcheck =>
    obtain ⟨hthawed, hadmits⟩ := check_eq_applied hcheck
    exact .put x y hthawed hadmits (congrArg Sst.record (applySetting_frame s k x y).sst)

/-- A SITE FREEZE sets the flag, and changes the queues by its notice (R187). -/
theorem freeze_keeps (s : State) (k : Port) : ∃ tp, s.freeze k = { s with sst := { s.sst with frozen := true }, tp := tp } := by
  unfold State.freeze
  dsimp only
  split <;> exact ⟨_, rfl⟩

/-- A SITE FREEZE of a part that is frozen changes nothing (R187). -/
theorem freeze_frozen (s : State) (k : Port) (h : s.sst.frozen = true) : s.freeze k = s := by
  unfold State.freeze
  dsimp only
  rw [if_pos h, ← h]

theorem freeze_takesFrame (s : State) (k : Port) (h : (s.tp.get k).takesFrame) : ((s.freeze k).tp.get k).takesFrame := by
  unfold State.freeze
  dsimp only
  split
  · exact h
  · exact noticeAll_takesFrame _ _ _ k h

theorem requestSave_settingsChanges (s : State) (k : Port) (kind : Nat) (a : Area) : SettingsChanges s (s.requestSave k kind a) := by
  unfold State.requestSave
  split
  · exact .of_sst rfl fun _ => StoreState.noConfusion
  · exact .unchanged _ _

/-- Of the requests' owners those of SITE SET and SITE FREEZE alone touch the settings. -/
theorem answer_settingsChanges (s : State) (k : Port) (note : PortNote) (q : Request) : SettingsChanges s (s.answer k note q) := by
  cases q with
  | siteSet i n v => exact answerSiteSet_settingsChanges s k i n v
  | siteFreeze =>
    obtain ⟨tp, hkept⟩ := freeze_keeps s k
    simp only [State.answer, answerSiteFreeze, hkept]
    exact .kept rfl rfl (fun _ => rfl) id
  | siteSave => exact requestSave_settingsChanges s k 0x13 .site
  | modelSave => exact requestSave_settingsChanges s k 0x14 .model
  | portSet m p l => simp only [State.answer, answerPortSet]; split <;> exact .unchanged _ _
  | offsetReport f => exact (RquFrame.takeReport (.refl s)).settingsChanges
  | modelClear =>
    simp only [State.answer, answerModelClear]
    split
    · obtain ⟨hstc, -, -, hsst, -⟩ := reportHealth_rest (s := s.clearModel) (before := s) rfl
      exact .of_sst hsst (by rw [State.respond_stc, hstc]; exact id)
    · exact .unchanged _ _
  | channelSet f =>
    simp only [State.answer, answerChannelSet]
    split
    · exact .unchanged _ _
    · rw [applyChannel_spec]
      exact .unchanged _ _
  | _ => exact .unchanged _ _

theorem dispatch_settingsChanges (s : State) (k : Port) (note : PortNote) (q : Request) : SettingsChanges s (s.dispatch k note q) := by
  unfold State.dispatch
  split
  · exact .unchanged _ _
  · split
    · exact .unchanged _ _
    · exact answer_settingsChanges s k note q

theorem receive_settingsChanges (s : State) (k : Port) (x : Inbound) : SettingsChanges s (s.receive k x) := by
  unfold State.receive State.dispatchFrame
  split
  · exact .unchanged _ _
  · split
    · exact .unchanged _ _
    · exact .unchanged _ _
    · exact dispatch_settingsChanges (s.onPort k TenantPort.goodFrame) k _ _

theorem request_settingsChanges (s : State) (k : Port) (t : Nat) (q : Request) : SettingsChanges s (s.request k t q) :=
  dispatch_settingsChanges (((s.advanceTo t).onPort k fun p => p.begin.statusOut.delivered).onPort k TenantPort.goodFrame) k _ q

/-! ## Loop updates, epochs, sensor sequences, saves and loading -/

/-- A loop update leaves the settings and the store (R71). -/
theorem update_settingsChanges (s : State) (order : List UpdatePart) : SettingsChanges s (s.update order) := by
  have hfound : RquFrame (s.advanceTo (s.tsu.interval / 2)) (atLoop order s).spendEstimates := .spendEstimates (atLoop_frame s order)
  obtain ⟨-, hdecided⟩ := decideUpdate_keeps (atLoop order s).spendEstimates ((atLoop order s).readLoop (gateOffset s))
  obtain ⟨l, c, w, t, hhandOn⟩ := handOn_keeps (s.updateDecision order) (atLoop order s) ((atLoop order s).readLoop (gateOffset s))
  have hloop : ((atLoop order s).loopPart (gateOffset s)).sst = s.sst ∧ ((atLoop order s).loopPart (gateOffset s)).stc = s.stc := by
    rw [State.loopPart, hhandOn, State.updateDecision, hdecided]
    exact ⟨hfound.sst, hfound.stc⟩
  have hafter := update_atLoop s order
  exact .of_sst (hafter.sst.trans hloop.1) (by rw [hafter.stc, hloop.2]; exact id)

/-- An epoch counts towards the next autosave, and leaves the store state (R5, R191). -/
theorem raiseEpoch_settingsChanges (s : State) : SettingsChanges s s.raiseEpoch := by
  obtain ⟨tp, hepoch⟩ := raiseEpoch_eq s
  have hstore : (s.stc.epoch s.dlp.engine).store = s.stc.store := by rw [stcEpoch_eq]
  rw [hepoch]
  exact .of_sst rfl fun hnot => hstore.trans_ne hnot

theorem completeSequence_settingsChanges (s : State) (raw : RawCounts) : SettingsChanges s (s.completeSequence raw) := by
  obtain ⟨l, tp, hkept⟩ := completeSequence_keeps s raw
  rw [hkept]
  exact .unchanged _ _

/-- The end of a save changes the site-default flag at most, and leaves the store IDLE or SAVING (R189). -/
theorem endSave_settingsChanges (s : State) (v : Save) (ok : Bool) (done begun : Nat) : SettingsChanges s (s.endSave v ok done begun) := by
  obtain ⟨x, hend, -, -, -, -, hstore⟩ := endSave_spec s v ok done begun
  have hnot : x.store ≠ .loadingSite := by
    split at hstore
    · obtain ⟨z, hsaving, -⟩ := hstore
      rw [hsaving]
      exact StoreState.noConfusion
    · rw [hstore]
      exact StoreState.noConfusion
  rw [hend]
  exact .kept rfl rfl id fun _ => hnot

/-- The read of the MODEL area ends with the store IDLE (R193). -/
theorem loadModel_settingsChanges (s : State) (content : Option (List Byte)) : SettingsChanges s (s.loadModel content) := by
  have hended : ∀ v before : State, v.sst = s.sst → SettingsChanges s (v.endLoading before) := fun v before hv => by
    obtain ⟨hstc, -, -, hsst, -⟩ := endLoading_spec (s := v) (before := before) rfl
    exact .of_sst (hsst.trans hv) fun _ => by rw [hstc]; exact StoreState.noConfusion
  unfold State.loadModel
  split
  · exact hended s s rfl
  · next c =>
    obtain ⟨tp, hinterrupt⟩ := interruptEpisode_keeps (s.restore (restoredOf c))
    exact hended _ s (by rw [hinterrupt, ← s.restore_sst (restoredOf c)])

/-- The read of the SITE area without a valid content: the record stays (R193). -/
theorem loadSite_none (s : State) : s.loadSite none = { s with
    sst := { s.sst with siteDefault := true, frozen := s.sst.frozen || s.site.flag .startFrozen }
    stc := { s.stc with store := .loadingModel, siteFromStore := false } } := by
  simp [State.loadSite]

/-- The read of the SITE area with a valid content: it gives the record (R193). -/
theorem loadSite_some (s : State) (content : List Byte) : s.loadSite (some content) = { s with
    sst := { s.sst with record := siteOf content, frozen := s.sst.frozen || (siteOf content).flag .startFrozen }
    stc := { s.stc with store := .loadingModel, siteFromStore := true } } := by
  simp [State.loadSite]

theorem loadSite_settingsChanges (s : State) (content : Option (List Byte)) (hloading : s.stc.store = .loadingSite) :
    SettingsChanges s (s.loadSite content) := by
  cases content with
  | none =>
    rw [loadSite_none]
    exact .kept rfl rfl (fun hfrozen => by rw [hfrozen, Bool.true_or]) fun _ => StoreState.noConfusion
  | some c =>
    rw [loadSite_some]
    exact .loaded c hloading (by dsimp only)

/-! ## Every command -/

/-- Every command but a hardware reset changes the settings in one of the ways of `SettingsChange`. -/
theorem exec_settingsChanges {c : Instr} {s u : State} (hreset : isReset c = false) (hexec : exec c s = .next u) : SettingsChanges s u := by
  have hchange : ∀ {f : State → State}, (∀ v, exec c v = whileRunning v f) → SettingsChanges s (f s) → SettingsChanges s u :=
    fun heffect hf => exec_preserves (SettingsChanges s) hexec heffect (.unchanged _ _) hf
  cases c with
  | hardwareReset cause progress => cases hreset
  | resetRelease =>
    cases hexec
    split <;> exact .unchanged _ _
  | siteLoad a =>
    refine hchange (fun _ => rfl) ?_
    split
    · next hloading => exact loadSite_settingsChanges s _ hloading
    · exact .unchanged _ _
  | modelLoad t a =>
    refine hchange (fun _ => rfl) ?_
    dsimp only
    split
    · exact loadModel_settingsChanges (s.advanceTo t) _
    · exact .unchanged _ _
  | epoch => exact hchange (fun _ => rfl) (raiseEpoch_settingsChanges s)
  | autosave =>
    refine hchange (fun _ => rfl) ?_
    split
    · split
      · exact .of_sst rfl fun _ => StoreState.noConfusion
      · exact .unchanged _ _
    · exact .unchanged _ _
  | holdOffExpiry r =>
    refine hchange (fun _ => rfl) ?_
    split
    · exact (RquFrame.finish (.expire (.refl s))).settingsChanges
    · exact .unchanged _ _
  | settlingExpiry => exact hchange (fun _ => rfl) (by split <;> exact .unchanged _ _)
  | loopUpdate order => exact hchange (fun _ => rfl) (update_settingsChanges s order)
  | pulseArrival p t => exact hchange (fun _ => rfl) (RquFrame.pulse (.refl (s.advanceTo t))).settingsChanges
  | staleTimerExpiry k =>
    refine hchange (fun _ => rfl) ?_
    split
    · exact (RquFrame.staleExpiry (.refl s)).settingsChanges
    · exact .unchanged _ _
  | pulseDue k => exact hchange (fun _ => rfl) (by split <;> exact .unchanged _ _)
  | pulseEnd k => exact hchange (fun _ => rfl) (by split <;> [exact .unchanged _ _; split <;> exact .unchanged _ _])
  | attentionPulseEnd k => exact hchange (fun _ => rfl) (by split <;> [exact .unchanged _ _; split <;> exact .unchanged _ _])
  | vctlSample => exact hchange (fun _ => rfl) (by split <;> exact .unchanged _ _)
  | sequenceComplete t raw =>
    refine hchange (fun _ => rfl) ?_
    dsimp only
    split
    · exact completeSequence_settingsChanges (s.advanceTo t) raw
    · exact .unchanged _ _
  | frameReceived k t bytes =>
    refine hchange (fun _ => rfl) ?_
    dsimp only
    split
    · exact receive_settingsChanges ((s.advanceTo t).onPort k fun p => p.finish bytes.length) k _
    · exact .unchanged _ _
  | saveEnd t clean =>
    refine hchange (fun _ => rfl) ?_
    split
    · exact endSave_settingsChanges (s.advanceTo t) _ _ _ _
    · exact .unchanged _ _
  | saveTimeout t progress =>
    refine hchange (fun _ => rfl) ?_
    split
    · exact endSave_settingsChanges (s.advanceTo t) _ _ _ _
    · exact .unchanged _ _
  | powerFailWarning =>
    refine hchange (fun _ => rfl) ?_
    split
    · exact .of_sst rfl fun _ => StoreState.noConfusion
    · split <;> exact .unchanged _ _
    · exact .unchanged _ _
  | slewTick _ | f1Edge _ | companionRecord _ _ | sensorSequenceStart | transactionStart _ | statusByteClockedOut _ =>
    exact hchange (fun _ => rfl) (.unchanged _ _)
  | _ => exact hchange (fun _ => rfl) (request_settingsChanges s _ _ _) -- the requests

/-! ## What no change of the settings breaks -/

/-- A change of the settings leaves a record in range: a value put is in range, and a record loaded is clamped (R184, R186, R188). -/
theorem SettingsChange.inRange {x y : Sst} {store store' : StoreState} (g : SettingsChange x store y store') (h : x.record.inRange = true) :
    y.record.inRange = true := by
  cases g with
  | kept hrecord =>
    rw [hrecord]
    exact h
  | put z v _ hadmits hrecord =>
    rw [hrecord]
    exact put_inRange h hadmits
  | loaded content _ hrecord =>
    rw [hrecord]
    exact siteOf_inRange content

/-- Every command keeps the settings in range; a hardware reset gives the factory record (R184). -/
theorem exec_settingsInRange {c : Instr} {s u : State} (h : SettingsInRange s) (hexec : exec c s = .next u) : SettingsInRange u := by
  by_cases hreset : isReset c = false
  · exact (exec_settingsChanges hreset hexec).inRange h
  · cases c with
    | hardwareReset cause progress =>
      cases hexec
      exact factory_inRange
    | _ => exact absurd rfl hreset

end Sys2Proof.Machine
end

section
/-! The statements about the site settings and the model store, settled. -/

namespace Sys2Proof.SiteStore

open Sys2Proof Sys2Proof.Machine Sys2Proof.Safety

/-- Settles O55: of the ways in which a command changes the settings, the part that is frozen and has read its SITE area admits only the one that
keeps them. -/
theorem frozenRecordFixed : Obligations.FrozenRecordFixed := by
  intro c s u hreset hread hfrozen hexec
  cases exec_settingsChanges hreset hexec with
  | kept hrecord hcount hstays hstore => exact ⟨hrecord, hstays hfrozen, hcount, hstore hread⟩
  | put x v hthawed =>
    rw [hfrozen] at hthawed
    cases hthawed
  | loaded content hloading => exact absurd hloading hread

/-- Settles O56: on an empty queue of commands the part idles, and every command keeps the settings in range. -/
theorem settingsStayInRange : Obligations.SettingsStayInRange := by
  intro s u h hstep
  unfold step at hstep
  split at hstep
  · cases hstep
    exact h
  · next rest _ => exact exec_settingsInRange (s := { s with pending := rest }) h hstep

/-- Settles O4: the read applies the content it finds valid, or keeps the record. -/
theorem siteLoadApplies : Obligations.SiteLoadApplies := by
  intro answered s hrunning hloading
  have hexec : exec (.siteLoad answered) s = .next (s.loadSite (if answered then s.flash.site.bind (Area.contentOf .site) else none)) := by
    rw [exec_siteLoad s hrunning, hloading]
    rfl
  refine ⟨_, hexec, rfl, ?_⟩
  generalize (if answered then s.flash.site.bind (Area.contentOf .site) else none) = content
  cases content with
  | none =>
    rw [loadSite_none]
    exact ⟨⟨rfl, rfl, rfl⟩, rfl, rfl, rfl⟩
  | some c =>
    rw [loadSite_some]
    simp only [State.site, and_self]

/-- Settles O54: the owner sets the flag, which where it was set already changes nothing, and its response joins a queue that takes it. -/
theorem siteFreezeSets : Obligations.SiteFreezeSets := by
  intro k t s hready hloaded
  have hexec := exec_command_answered s k t .siteFreeze hready hloaded
  have hok : resultOnly .ok = [0] := u1_of_lt 0 (by decide)
  obtain ⟨tp, hkept⟩ := freeze_keeps (atDispatch s k t) k
  refine ⟨fun hfrozen => ?_, _, hexec, ?_, ⟨_, respond_last_of_takesFrame _ k 0x12 _ ?_, rfl, hok⟩, ?_⟩
  · have howner : (atDispatch s k t).answer k (s.tp.get k).note .siteFreeze = (atDispatch s k t).respond k 0x12 [0] := by
      rw [← hok]
      exact congrArg (State.respond · k 0x12 (resultOnly .ok)) (freeze_frozen (atDispatch s k t) k hfrozen)
    exact exec_command_responded s k t .siteFreeze 0x12 [0] hready hloaded howner
  · rw [State.answer, answerSiteFreeze, hkept]
    rfl
  · exact freeze_takesFrame _ k (atDispatch_takesFrame s k t hready)
  · rw [State.answer, answerSiteFreeze, hkept]
    rfl

/-- Settles O57: the content has the area's length, so its image is valid, and its entries give back the record. -/
theorem siteImageReadsBack : Obligations.SiteImageReadsBack := fun r h =>
  ⟨contentOf_image .site _ (siteContent_length r), siteOf_siteContent h⟩

/-- Settles O59: each command starts its save where the store is IDLE, and the warning is kept pending during another save. -/
theorem unrequestedSavesStart : Obligations.UnrequestedSavesStart := by
  intro s hrunning now save
  refine ⟨?_, ?_⟩
  · rw [exec_autosave s hrunning]
    cases hstore : s.stc.store with
    | idle =>
      have hdue : (s.tsu.phase = 0 ∧ s.autosaveDue = true ∧ s.stc.pendingEmergency = false) ↔
          (s.tsu.phase = 0 ∧ StoreState.idle = .idle ∧ s.stc.pendingEmergency = false ∧ s.site.nat .autosaveInterval ≠ 0 ∧
            3600 * s.site.nat .autosaveInterval ≤ s.stc.autosaveCount) := by
        simp only [State.autosaveDue, decide_eq_true_eq]
        tauto
      simp only [hdue]
      rfl
    | _ => simp
  · cases hstore : s.stc.store with
    | idle =>
      rw [exec_powerFailWarning s hrunning, hstore]
      rfl
    | saving v =>
      have hemergency : v.origin.isEmergency = true ↔ v.origin = .emergency := by cases v.origin <;> simp [SaveOrigin.isEmergency]
      rw [exec_powerFailWarning s hrunning, hstore]
      simp only [hemergency]
    | _ => rw [exec_powerFailWarning s hrunning, hstore]

end Sys2Proof.SiteStore
end

section
/-! What a step does, one equation for each form of the queue of commands (log entries 1 and 3), and the statement about it, settled. -/

namespace Sys2Proof.Machine

open Sys2Proof

/-- With no command waiting the part idles. -/
theorem step_of_pending_nil {s : State} (h : s.pending = []) : step s = .next s := by
  rw [step, h]

/-- The outcome is the front command's, of the part with the rest of the queue. -/
theorem step_of_pending_cons {c : Instr} {rest : List Instr} {s : State} (h : s.pending = c :: rest) :
    step s = exec c { s with pending := rest } := by
  rw [step, h]

/-- Settles O1: the two forms of the queue. -/
theorem stepRunsFrontCommand : Obligations.StepRunsFrontCommand :=
  ⟨fun _ _ _ => step_of_pending_cons rfl, fun _ => step_of_pending_nil rfl⟩

end Sys2Proof.Machine
end
